-- ==== Sys2Proof/Word.lean ====
section
/-! DEFINITION. The word types of the spec's notation (00_scope.md R10): `u8`, `u16` and the 2-bit pixel.
Only the types stand here; the helpers over them stand beside what uses them. -/

namespace Sys2Proof

/-- `u8`: a register of `REG_W` = 8 bits, a memory byte, an opcode byte (R6, R10). -/
abbrev Byte := BitVec 8

/-- `u16`: `PC_W` = 16 bits, a CPU address, `VPTR` (R6, R10). -/
abbrev Word := BitVec 16

/-- A palette index, 0 to 3 (10_state.md R36). -/
abbrev Pixel := BitVec 2

/-- A decoded tile: 8 rows of 8 pixels (10_state.md R36). -/
abbrev Tile := Vector (Vector Pixel 8) 8

end Sys2Proof
end

