-- ==== Sys2Proof/Config.lean ====
section
/-! DEFINITION. The implementation parameters of 00_scope.md R6, each under its name there. They are configuration,
not state (10_state.md R39). `OPCODE_TABLE` stands in Sys2Proof/Decode.lean; `RESET_DRAW` and `DISPLAY` are arguments of
`State.resetWith` (Sys2Proof/Machine/State.lean). The one OPEN parameter that is a constant, `GRAY_PALETTE`, has no body. -/

namespace Sys2Proof.Config

/-- `PRG_BASE`: where the program block is loaded and where `PC` starts (R6, D7). -/
def prgBase : Nat := 0x8000

/-- `MEM_SIZE` (R6). -/
def memSize : Nat := 0x10000

/-- `PRG_MAX` = 0x10000 - `PRG_BASE` (R6). -/
def prgMax : Nat := memSize - prgBase

/-- `IO_BASE`: the first byte of the I/O window (R6, D7). -/
def ioBase : Nat := 0x2000

/-- `IO_LEN`: the window's length (R6). -/
abbrev ioLen : Nat := 8

/-- `PORT_ADDR`: the window offset of the VRAM address port (R6, D8). -/
def portAddr : Fin ioLen := 6

/-- `PORT_DATA`: the window offset of the VRAM data port (R6, D8). -/
def portData : Fin ioLen := 7

/-- `VRAM_SIZE` (R6). -/
def vramSize : Nat := 0x4000

/-- `TILE_COUNT` (R6). -/
def tileCount : Nat := 512

/-- `TILE_BYTES` (R6). -/
def tileBytes : Nat := 16

/-- `NT_BASE`: the first byte of the name table in VRAM (R6, D14). -/
def ntBase : Nat := 0x2000

/-- `NT_LEN` = 32 x 30 (R6; 90_conflicts.md C2). -/
def ntLen : Nat := 960

/-- `BG_TILE_BASE` (R6, D15). -/
def bgTileBase : Nat := 0

/-- `RASTER_W` (R6). -/
abbrev rasterW : Nat := 256

/-- `RASTER_H` (R6). -/
abbrev rasterH : Nat := 240

/-- `N_BIT`: the bit of a value that is the negative flag (R6, D21; 90_conflicts.md C1). -/
def nBit : Nat := 7

/-- Which bit of a bitplane byte the leftmost column takes (D16). -/
inductive ColumnOrder where
  | msbFirst
  | lsbFirst
  deriving DecidableEq, Repr

/-- `TILE_COLUMN_ORDER` (R6, D16). -/
def tileColumnOrder : ColumnOrder := .msbFirst

/-- `GRAY_PALETTE`, OPEN (R6, D17): the gray level shown for each palette index. No level is stated, so the constant
has no body and a statement about it holds whatever it is. DESIGN CHOICE: a level is written as a `Nat`
(notes/assumptions/5.md, safe). -/
opaque grayPalette : Pixel → Nat

end Sys2Proof.Config
end

