-- ==== Sys2Proof/Syntax.lean ====
section
/-! DEFINITION. The syntax: addressing modes, mnemonics, rows of the dispatch ROM, and the one inductive of instructions,
one constructor per row of the opcode table (30_encoding.md R81, R84). -/

namespace Sys2Proof

/-- The five addressing modes (R84). -/
inductive Mode where
  | implied
  | immediate
  | relative
  | absolute
  | absoluteIndexedX
  deriving DecidableEq, Repr

/-- The mnemonics of R81, and `other` for a row that an extended dispatch ROM may hold (R92, D32).
DESIGN CHOICE: `other` carries a number (notes/assumptions/14.md, safe). -/
inductive Mnemonic where
  | jmp
  | sei
  | dey
  | tsx
  | ldy
  | ldx
  | lda
  | sta
  | inx
  | bne
  | other (tag : Nat)
  deriving DecidableEq, Repr

/-- One row of a dispatch ROM: an opcode byte and what it selects (R80). -/
structure RomRow where
  byte : Byte
  mnemonic : Mnemonic
  mode : Mode
  deriving DecidableEq, Repr

/-- A dispatch ROM: a byte that no row names is absent (R80). -/
abbrev Rom := List RomRow

/-- The instructions, with their operands as R86 assembles them: an immediate is a `u8`, a displacement the byte
before its sign extension, an address a `u16`. -/
inductive Instr where
  /-- JMP absolute (R120). -/
  | jmpAbs (target : Word)
  /-- SEI implied (R140). -/
  | sei
  /-- DEY implied (R152). -/
  | dey
  /-- TSX implied (R154). -/
  | tsx
  /-- LDY immediate (R172). -/
  | ldyImm (imm : Byte)
  /-- LDX immediate (R174). -/
  | ldxImm (imm : Byte)
  /-- LDA immediate (R176). -/
  | ldaImm (imm : Byte)
  /-- LDA absolute indexed by X (R178). -/
  | ldaAbsX (base : Word)
  /-- STA absolute (R180). -/
  | staAbs (addr : Word)
  /-- INX implied (R156). -/
  | inx
  /-- BNE relative (R122). -/
  | bneRel (off : Byte)
  deriving DecidableEq, Repr

end Sys2Proof
end

