-- ==== Sys2Proof/WellFormed.lean ====
section
/-! DEFINITION. Well-formedness: of an instruction, of a dispatch ROM (30_encoding.md R93) and of a pair of blocks handed
over directly (70_reset_and_hazards.md R284). -/

namespace Sys2Proof

/-- Every instruction is well formed: each operand's type has exactly the width of its field (R85), so every value of
it has an encoding and there is nothing left to check. -/
def Instr.wf : Instr → Bool
  | .jmpAbs _ => true
  | .sei => true
  | .dey => true
  | .tsx => true
  | .ldyImm _ => true
  | .ldxImm _ => true
  | .ldaImm _ => true
  | .ldaAbsX _ => true
  | .staAbs _ => true
  | .inx => true
  | .bneRel _ => true

/-- A dispatch ROM is legal when no byte has two rows (R93); that every mode is one of the five is in the type. -/
def Rom.wf : Rom → Bool
  | [] => true
  | row :: rows => rows.all (fun r => decide (r.byte ≠ row.byte)) && Rom.wf rows

/-- A program block and a tile block that may be handed over without a cartridge buffer: the program within `PRG_MAX`,
the tiles whole records and at most `TILE_COUNT` of them (R284). -/
def blockPairWf (prg chr : List Byte) : Bool :=
  decide (prg.length ≤ Config.prgMax) && decide (chr.length % Config.tileBytes = 0) &&
    decide (chr.length ≤ Config.tileCount * Config.tileBytes)

end Sys2Proof
end

