-- ==== Sys2Proof/Decode.lean ====
section
/-! DEFINITION. The dispatch ROM, the two-level decode, the encoder and the assembler forms (30_encoding.md R80 to R93).
Decoding is total on any bytes and refuses by name. -/

namespace Sys2Proof

/-- `len(mode)`: the instruction length, opcode byte included (R84). -/
def Mode.length : Mode → Nat
  | .implied => 1
  | .immediate => 2
  | .relative => 2
  | .absolute => 3
  | .absoluteIndexedX => 3

/-- `OPCODE_TABLE`: the contents of the dispatch ROM (R81, D1). -/
def opcodeTable : Rom :=
  [ ⟨0x4C, .jmp, .absolute⟩,
    ⟨0x78, .sei, .implied⟩,
    ⟨0x88, .dey, .implied⟩,
    ⟨0xBA, .tsx, .implied⟩,
    ⟨0xA0, .ldy, .immediate⟩,
    ⟨0xA2, .ldx, .immediate⟩,
    ⟨0xA9, .lda, .immediate⟩,
    ⟨0xBD, .lda, .absoluteIndexedX⟩,
    ⟨0x8D, .sta, .absolute⟩,
    ⟨0xE8, .inx, .implied⟩,
    ⟨0xD0, .bne, .relative⟩ ]

/-- `lookup(op)`: the pair a byte selects, or none when the byte is absent (R80). -/
def lookup : Rom → Byte → Option (Mnemonic × Mode)
  | [], _ => none
  | row :: rows, op => if row.byte = op then some (row.mnemonic, row.mode) else lookup rows op

/-- The 16-bit operand: B1 is bits 7:0 and B2 is bits 15:8 (R65, R86). -/
def absOperand (b1 b2 : Byte) : Word := (b2.setWidth 16 <<< 8) ||| b1.setWidth 16

/-- `HANDLERS` with the operand each mode assembles (R86, R92): the rule a pair has, or none. The pairs with a handler
are exactly the eleven of R81. -/
def handler (mn : Mnemonic) (mode : Mode) (b1 b2 : Byte) : Option Instr :=
  match mn, mode with
  | .jmp, .absolute => some (.jmpAbs (absOperand b1 b2))
  | .sei, .implied => some .sei
  | .dey, .implied => some .dey
  | .tsx, .implied => some .tsx
  | .ldy, .immediate => some (.ldyImm b1)
  | .ldx, .immediate => some (.ldxImm b1)
  | .lda, .immediate => some (.ldaImm b1)
  | .lda, .absoluteIndexedX => some (.ldaAbsX (absOperand b1 b2))
  | .sta, .absolute => some (.staAbs (absOperand b1 b2))
  | .inx, .implied => some .inx
  | .bne, .relative => some (.bneRel b1)
  | _, _ => none

/-- What the two levels of decode answer for the bytes B0, B1, B2 (R92). -/
inductive Dispatched where
  /-- The opcode byte is absent from the ROM: DecodeError. -/
  | absent
  /-- The byte's pair has no handler: UnimplementedInstruction. -/
  | noHandler
  /-- The instruction. -/
  | instr (i : Instr)
  deriving DecidableEq, Repr

/-- Two-level dispatch of B0 with the two bytes that follow it (R92). A shorter instruction does not look at the
bytes it does not have, and reading them has no side effect (20_memory.md R55; DEDUCED, notes/assumptions/10.md, safe). -/
def dispatch (rom : Rom) (b0 b1 b2 : Byte) : Dispatched :=
  match lookup rom b0 with
  | none => .absent
  | some (mn, mode) =>
    match handler mn mode b1 b2 with
    | none => .noHandler
    | some i => .instr i

/-- Why a list of bytes is no instruction. -/
inductive DecodeRefusal where
  /-- No byte at all. -/
  | empty
  /-- The opcode byte is absent (R82). -/
  | absent (op : Byte)
  /-- The opcode byte's pair has no handler (R92). -/
  | noHandler (op : Byte)
  /-- Fewer bytes than `len(mode)` (R85). -/
  | truncated (op : Byte)
  deriving DecidableEq, Repr

/-- The instruction at the head of a list of bytes and the bytes after it, or why there is none. -/
def decodeWith (rom : Rom) : List Byte → Except DecodeRefusal (Instr × List Byte)
  | [] => .error .empty
  | b0 :: bs =>
    match lookup rom b0 with
    | none => .error (.absent b0)
    | some (_, mode) =>
      if bs.length + 1 < mode.length then .error (.truncated b0)
      else
        match dispatch rom b0 (bs.getD 0 0) (bs.getD 1 0) with
        | .absent => .error (.absent b0)
        | .noHandler => .error (.noHandler b0)
        | .instr i => .ok (i, bs.drop (mode.length - 1))

/-- Decoding with the ROM of R81. -/
def decode (bs : List Byte) : Except DecodeRefusal (Instr × List Byte) := decodeWith opcodeTable bs

/-- B1 of a 16-bit operand: its bits 7:0 (R85). -/
def lowByte (w : Word) : Byte := w.setWidth 8

/-- B2 of a 16-bit operand: its bits 15:8 (R85). -/
def highByte (w : Word) : Byte := (w >>> 8).setWidth 8

/-- The encoder, written from the formats of R85 and the bytes of R81. -/
def encode : Instr → List Byte
  | .jmpAbs target => [0x4C, lowByte target, highByte target]
  | .sei => [0x78]
  | .dey => [0x88]
  | .tsx => [0xBA]
  | .ldyImm imm => [0xA0, imm]
  | .ldxImm imm => [0xA2, imm]
  | .ldaImm imm => [0xA9, imm]
  | .ldaAbsX base => [0xBD, lowByte base, highByte base]
  | .staAbs addr => [0x8D, lowByte addr, highByte addr]
  | .inx => [0xE8]
  | .bneRel off => [0xD0, off]

/-- The addressing mode of an instruction (R81). -/
def Instr.mode : Instr → Mode
  | .jmpAbs _ => .absolute
  | .sei => .implied
  | .dey => .implied
  | .tsx => .implied
  | .ldyImm _ => .immediate
  | .ldxImm _ => .immediate
  | .ldaImm _ => .immediate
  | .ldaAbsX _ => .absoluteIndexedX
  | .staAbs _ => .absolute
  | .inx => .implied
  | .bneRel _ => .relative

/-- The instruction decoded from the bits `w` of an instruction given `nbits` bits, the first byte in bits 7:0 (R85:
"Read as one little-endian word"); the bits above `nbits` are 0. -/
def decodeTableWord (nbits w : Nat) : Option Instr :=
  let v := w % 2 ^ nbits
  match decode [BitVec.ofNat 8 v, BitVec.ofNat 8 (v / 256), BitVec.ofNat 8 (v / 65536)] with
  | .ok (i, _) => some i
  | .error _ => none

/-! ## Assembler syntax (R90)
Notation only: no rule of the machine reads it (DESIGN CHOICE, notes/assumptions/15.md, safe). -/

/-- `sext_16(v)` (00_scope.md R10). -/
def sext16 (v : Byte) : Word := v.signExtend 16

/-- `off8` for a BNE at `addr` to `target`, none where it does not lie in -128..+127 (R90). -/
def branchOffset (addr target : Word) : Option Byte :=
  let d := target - (addr + 2)
  if sext16 (d.setWidth 8) = d then some (d.setWidth 8) else none

/-- One hexadecimal digit. -/
def hexDigit (n : Nat) : Char :=
  if n < 10 then Char.ofNat (48 + n) else Char.ofNat (55 + n)

/-- `$hh`. -/
def hexByte (b : Byte) : List Char :=
  ['$', hexDigit (b.toNat / 16), hexDigit (b.toNat % 16)]

/-- `$hhhh`. -/
def hexWord (w : Word) : List Char :=
  ['$', hexDigit (w.toNat / 4096), hexDigit (w.toNat / 256 % 16), hexDigit (w.toNat / 16 % 16), hexDigit (w.toNat % 16)]

/-- The assembler form, as characters, of an instruction at `addr`; a branch is written as its target address (R90). -/
def Instr.assembly (addr : Word) : Instr → List Char
  | .jmpAbs target => ['J', 'M', 'P', ' '] ++ hexWord target
  | .sei => ['S', 'E', 'I']
  | .dey => ['D', 'E', 'Y']
  | .tsx => ['T', 'S', 'X']
  | .ldyImm imm => ['L', 'D', 'Y', ' ', '#'] ++ hexByte imm
  | .ldxImm imm => ['L', 'D', 'X', ' ', '#'] ++ hexByte imm
  | .ldaImm imm => ['L', 'D', 'A', ' ', '#'] ++ hexByte imm
  | .ldaAbsX base => ['L', 'D', 'A', ' '] ++ hexWord base ++ [',', 'X']
  | .staAbs addr' => ['S', 'T', 'A', ' '] ++ hexWord addr'
  | .inx => ['I', 'N', 'X']
  | .bneRel off => ['B', 'N', 'E', ' '] ++ hexWord (addr + 2 + sext16 off)

end Sys2Proof
end

