-- ==== Sys2Proof/Machine/State.lean ====
section
/-! DEFINITION. The state (10_state.md R20), as plain data, and its reset (R40); the fault records (60_exceptions.md R250);
the reasons a step of the model can end without a next state. -/

namespace Sys2Proof.Machine

/-- The flag register: seven independent booleans, each with its own storage (R28). There is no packed form (R30). -/
structure Flags where
  /-- `P.N`, negative. -/
  n : Bool
  /-- `P.V`, overflow. -/
  v : Bool
  /-- `P.B`, break. -/
  b : Bool
  /-- `P.D`, decimal. -/
  d : Bool
  /-- `P.I`, interrupt-disable. -/
  i : Bool
  /-- `P.Z`, zero. -/
  z : Bool
  /-- `P.C`, carry. -/
  c : Bool
  deriving DecidableEq, Repr

/-- The reasons of a LoadError (60_exceptions.md R254). -/
inductive LoadReason where
  | badMagic
  | truncated
  | prgTooLarge
  | chrTooLarge
  deriving DecidableEq, Repr

/-- The fault kinds with their records (60_exceptions.md R250). -/
inductive FaultRecord where
  /-- Code 1 (R251). -/
  | decodeError (op : Byte) (pc0 : Word)
  /-- Code 2 (R252). -/
  | unimplementedInstruction (op : Byte) (pc0 : Word)
  /-- Code 3 (R253). -/
  | vramRangeError (op : Byte) (pc0 : Word) (vptr : Word)
  /-- Code 4 (R254). -/
  | loadError (reason : LoadReason)
  deriving DecidableEq, Repr

/-- `RUN` (R37). -/
inductive RunState where
  | running
  | stopped (record : FaultRecord)
  | terminated
  deriving DecidableEq, Repr

/-- One answer of the host at `display_status` (50_ppu.md R222). `silent` stands for a host that never answers: the
block is then stuck inside the cycle (93 item 15; 70_reset_and_hazards.md R297). -/
inductive DisplayAnswer where
  | ready
  | closed
  | silent
  deriving DecidableEq, Repr

/-- A byte array as the list of its entries that are not 0x00, addresses strictly rising; an unlisted address reads
as 0x00, which is the reset value of `M` and of VRAM (R33, R34, R40; DEDUCED, notes/assumptions/13.md). -/
abbrev Memory := List Host.Cell

/-- The tiles that are not the empty tile, by number, numbers strictly rising (R36). -/
abbrev TileTable := List (Nat × Tile)

/-- The state of the block. Every field but `display` is a component of the tuple of R20. -/
structure State where
  /-- `A` (R21). -/
  a : Byte
  /-- `X` (R22). -/
  x : Byte
  /-- `Y` (R23). -/
  y : Byte
  /-- `SP` (R24). -/
  sp : Byte
  /-- `PC` (R25). -/
  pc : Word
  /-- `P` (R28). -/
  p : Flags
  /-- `M` (R33). -/
  mem : Memory
  /-- `VRAM` (R34). -/
  vram : Memory
  /-- `VPTR` (R35). -/
  vptr : Word
  /-- `TILES` (R36). -/
  tiles : TileTable
  /-- `RUN` (R37). -/
  run : RunState
  /-- The MODEL's own field: the OPEN input `DISPLAY` (00_scope.md R6, D26), the answers still to come, next first.
  DESIGN CHOICE: every answer after the last listed one is `Ready`, so that each infinite sequence of answers the
  block can tell apart is some list (notes/assumptions/2.md, unsafe for runs from `State.reset`). -/
  display : List DisplayAnswer
  deriving DecidableEq, Repr

/-- `RESET_DRAW` (00_scope.md R6): the values at reset that the spec leaves open (R40, D3, D4). -/
structure ResetDraw where
  a : Byte
  x : Byte
  y : Byte
  sp : Byte
  p : Flags
  deriving DecidableEq, Repr

/-- The state at reset for one draw and one sequence of display answers (R40). -/
def State.resetWith (draw : ResetDraw) (display : List DisplayAnswer) : State where
  a := draw.a
  x := draw.x
  y := draw.y
  sp := draw.sp
  pc := BitVec.ofNat 16 Config.prgBase
  p := draw.p
  mem := []
  vram := []
  vptr := 0
  tiles := []
  run := .running
  display := display

/-- The draw that `State.reset` takes: every register 0x00 and every flag false. DESIGN CHOICE: the spec gives no
value (notes/assumptions/1.md, unsafe). -/
def ResetDraw.zero : ResetDraw where
  a := 0
  x := 0
  y := 0
  sp := 0
  p := ⟨false, false, false, false, false, false, false⟩

/-- The machine right after reset, before the boot load (R40, 70_reset_and_hazards.md R280). DESIGN CHOICE: the zero
draw (notes/assumptions/1.md, unsafe) and a host that answers `Ready` (notes/assumptions/2.md, unsafe). -/
def State.reset : State := State.resetWith ResetDraw.zero []

/-- Why no further cycle runs. No instruction and no data of a running program raises one of these: a fault of the
spec is a next state whose `run` is `stopped` (notes/assumptions/4.md). -/
inductive Fault where
  /-- Raised by `step` in a state whose RUN is `Stopped(record)`: "no cycle runs from them" (R37). Safe: nothing runs. -/
  | blockStopped (record : FaultRecord)
  /-- Raised by `step` in a state whose RUN is `Terminated` (R37). Safe: nothing runs. -/
  | blockTerminated
  /-- Raised by the display hand-off when the host never answers: the block is stuck inside the cycle (93 item 15).
  Safe: nothing can be claimed of what follows. -/
  | displaySilent
  deriving DecidableEq, Repr

/-- What the model rejects before it runs it. -/
inductive Refusal where
  /-- An instruction without a meaning, by its mnemonic; no arm of `exec` answers it. Safe. -/
  | notModelled (mnemonic : String)
  /-- Raised by `powerOnWith`: a dispatch ROM with two rows for one byte (30_encoding.md R93). Safe. -/
  | illegalDispatchRom
  /-- Raised by `bootBlocks`: a directly handed pair of blocks out of limits (70_reset_and_hazards.md R284). Safe. -/
  | illegalBlockPair
  deriving DecidableEq, Repr

end Sys2Proof.Machine
end

