-- ==== Sys2Proof/Machine/Memory.lean ====
section
/-! DEFINITION. Arrays held as lists in one canonical form: keys strictly rising, no entry equal to what an unlisted key
reads as. `M`, VRAM and TILES are such arrays (10_state.md R32 to R36). -/

namespace Sys2Proof.Machine

/-- The value at key `k`, `d` where the list has no entry for it. -/
def Sparse.get {α : Type} (d : α) : List (Nat × α) → Nat → α
  | [], _ => d
  | (j, v) :: m, k => if k = j then v else Sparse.get d m k

/-- The array with `v` at key `k`; writing `d` removes the entry. -/
def Sparse.set {α : Type} [DecidableEq α] (d : α) : List (Nat × α) → Nat → α → List (Nat × α)
  | [], k, v => if v = d then [] else [(k, v)]
  | (j, w) :: m, k, v =>
    if k < j then (if v = d then (j, w) :: m else (k, v) :: (j, w) :: m)
    else if k = j then (if v = d then m else (k, v) :: m)
    else (j, w) :: Sparse.set d m k v

/-- The canonical form over keys `lo` to `size - 1`. -/
def Sparse.wfFrom {α : Type} [DecidableEq α] (d : α) (size : Nat) : Nat → List (Nat × α) → Bool
  | _, [] => true
  | lo, (k, v) :: m => decide (lo ≤ k) && decide (k < size) && decide (v ≠ d) && Sparse.wfFrom d size (k + 1) m

/-- The byte at `k`; 0x00 where nothing is listed (R33, R34). -/
def Memory.get (m : Memory) (k : Nat) : Byte := Sparse.get 0 m k

/-- The array with byte `v` at `k`. -/
def Memory.set (m : Memory) (k : Nat) (v : Byte) : Memory := Sparse.set 0 m k v

/-- The canonical form of an array of `size` bytes. -/
def Memory.wfSize (size : Nat) (m : Memory) : Bool := Sparse.wfFrom 0 size 0 m

/-- The canonical form of `M`. -/
def Memory.wf (m : Memory) : Bool := Memory.wfSize Config.memSize m

/-- The bytes `bs` written at `k`, `k + 1` and so on (20_memory.md R68). -/
def Memory.setBytes (m : Memory) (k : Nat) : List Byte → Memory
  | [] => m
  | b :: bs => Memory.set (Memory.setBytes m (k + 1) bs) k b

/-- 0x00 written at the `n` keys from `k` on (20_memory.md R61). -/
def Memory.clear (m : Memory) (k : Nat) : Nat → Memory
  | 0 => m
  | n + 1 => Memory.set (Memory.clear m k n) (k + n) 0

/-- The empty tile: every pixel 0 (10_state.md R36). -/
def emptyTile : Tile := Vector.replicate 8 (Vector.replicate 8 0)

/-- Tile `t`; the empty tile where nothing is listed (R36). -/
def TileTable.get (m : TileTable) (t : Nat) : Tile := Sparse.get emptyTile m t

/-- The table with `tile` at number `t`. -/
def TileTable.set (m : TileTable) (t : Nat) (tile : Tile) : TileTable := Sparse.set emptyTile m t tile

/-- The canonical form of TILES. -/
def TileTable.wf (m : TileTable) : Bool := Sparse.wfFrom emptyTile Config.tileCount 0 m

end Sys2Proof.Machine
end

