-- ==== Sys2Proof/Machine/Ops.lean ====
section
/-! DEFINITION. The named operations over registers and memory (10_state.md R26, 20_memory.md), the address decoder and the
I/O window, and fault entry as one shared operation (60_exceptions.md R257). -/

namespace Sys2Proof.Machine

/-! ## Register file: independent writes (R26) -/

/-- `A <- v`. -/
def State.setA (s : State) (v : Byte) : State := { s with a := v }
/-- `X <- v`. -/
def State.setX (s : State) (v : Byte) : State := { s with x := v }
/-- `Y <- v`. -/
def State.setY (s : State) (v : Byte) : State := { s with y := v }
/-- `PC <- v`. -/
def State.setPc (s : State) (v : Word) : State := { s with pc := v }
/-- `P <- v`. -/
def State.setP (s : State) (v : Flags) : State := { s with p := v }
/-- `M` becomes `v`. -/
def State.setMem (s : State) (v : Memory) : State := { s with mem := v }
/-- `VRAM` becomes `v`. -/
def State.setVram (s : State) (v : Memory) : State := { s with vram := v }
/-- `VPTR <- v`. -/
def State.setVptr (s : State) (v : Word) : State := { s with vptr := v }
/-- `TILES` becomes `v`. -/
def State.setTiles (s : State) (v : TileTable) : State := { s with tiles := v }
/-- `RUN <- v`. -/
def State.setRun (s : State) (v : RunState) : State := { s with run := v }
/-- The answers still to come. -/
def State.setDisplay (s : State) (v : List DisplayAnswer) : State := { s with display := v }

/-- `advance_pc(n)`: adds n to PC mod 2^16 (R26, 30_encoding.md R89). -/
def State.advancePc (s : State) (n : Nat) : State := s.setPc (s.pc + BitVec.ofNat 16 n)

/-! ## Memory access (20_memory.md R55, R56)
An address is a `Word`, so it is reduced mod 2^16 by its type (R54), and no access fails. -/

/-- `MemRead(a, 1)`: the stored byte, in every region (R55). -/
def State.readMem (s : State) (a : Word) : Byte := s.mem.get a.toNat

/-- `MemWrite(a, 1, v)`: a store, in every region (R56, R53). -/
def State.writeMem (s : State) (a : Word) (v : Byte) : State := s.setMem (s.mem.set a.toNat v)

/-! ## Address decoder (20_memory.md R51) -/

/-- The four regions (R51). -/
inductive Region where
  | lowRam
  | ioWindow
  | midRam
  | programRegion
  deriving DecidableEq, Repr

/-- The region an address falls in (R51). It decides only which bytes the snapshot and the clear touch. -/
def region (a : Word) : Region :=
  if a.toNat < Config.ioBase then .lowRam
  else if a.toNat < Config.ioBase + Config.ioLen then .ioWindow
  else if a.toNat < Config.prgBase then .midRam
  else .programRegion

/-! ## The I/O window (20_memory.md R58 to R61) -/

/-- The CPU address of window offset `i` (R58). -/
def windowAddr (i : Fin Config.ioLen) : Word := BitVec.ofNat 16 (Config.ioBase + i.val)

/-- The 8-byte snapshot `S` (R60). -/
abbrev Snapshot := Vector Byte Config.ioLen

/-- `read_io_window()`: `S[i] <- M[IO_BASE + i]` (R60). -/
def State.snapshot (s : State) : Snapshot := Vector.ofFn fun i => s.readMem (windowAddr i)

/-- `clear_io_window()`: `M[IO_BASE + i] <- 0x00` (R61). -/
def State.clearWindow (s : State) : State := s.setMem (s.mem.clear Config.ioBase Config.ioLen)

/-! ## Fault entry (60_exceptions.md R257)
There is no return from a fault beside it: `Stopped` is final (R258). -/

/-- `code(k)` (R250). -/
def FaultRecord.code : FaultRecord → Nat
  | .decodeError _ _ => 1
  | .unimplementedInstruction _ _ => 2
  | .vramRangeError _ _ _ => 3
  | .loadError _ => 4

/-- `raise k(r)`: RUN becomes `Stopped(r)` and no other state changes (R257). -/
def State.raise (s : State) (r : FaultRecord) : State := s.setRun (.stopped r)

/-- How a part of a cycle ends. -/
inductive Phase where
  /-- It completed in `s`. -/
  | done (s : State)
  /-- It raised fault `r` in state `s`, which is the state at the raise point (R257). -/
  | raised (r : FaultRecord) (s : State)
  /-- No cycle runs, or none goes on. -/
  | stuck (f : Fault)
  /-- Rejected. -/
  | refused (r : Refusal)
  deriving DecidableEq, Repr

end Sys2Proof.Machine
end

