-- ==== Sys2Proof/Machine/Ppu.lean ====
section
/-! DEFINITION. The PPU (50_ppu.md): the VRAM port protocol, the tile decoder, the rasterizer, the display hand-off. -/

namespace Sys2Proof.Machine

/-! ## The VRAM write protocol (R201 to R203) -/

/-- `address_port(v)`: VPTR shifted left by 8 bits with `v` as its low byte (R202). -/
def State.addressPort (s : State) (v : Byte) : State := s.setVptr ((s.vptr <<< 8) ||| v.setWidth 16)

/-- `data_port(v)` in the cycle of the instruction `op` at `pc0`: a store at VPTR and its increment, or VramRangeError
(R203, R253). -/
def State.dataPort (s : State) (op : Byte) (pc0 : Word) (v : Byte) : Phase :=
  if Config.vramSize ≤ s.vptr.toNat then .raised (.vramRangeError op pc0 s.vptr) s
  else .done ((s.setVram (s.vram.set s.vptr.toNat v)).setVptr (s.vptr + 1))

/-- `PPU_update(S)`: the address port first, then the data port; a zero byte is no write; offsets 0 to 5 are ignored
(R201). -/
def State.ppuUpdate (s : State) (op : Byte) (pc0 : Word) (snap : Snapshot) : Phase :=
  let a := snap[Config.portAddr]
  let d := snap[Config.portData]
  let t := if a = 0 then s else s.addressPort a
  if d = 0 then .done t else t.dataPort op pc0 d

/-! ## Tile decode (R210, R211) -/

/-- The bit of a plane byte that column `c` takes (R210, D16). -/
def columnBit (c : Nat) : Nat :=
  match Config.tileColumnOrder with
  | .msbFirst => 7 - c
  | .lsbFirst => c

/-- Bit `b` of a byte as a pixel of 0 or 1. -/
def planeBit (v : Byte) (b : Nat) : Pixel := (BitVec.ofBool (v.getLsbD b)).setWidth 2

/-- `decode_tile(rec)`: bytes 0 to 7 are the low plane, 8 to 15 the high plane (R210). -/
def decodeTile (record : List Byte) : Tile :=
  Vector.ofFn fun r => Vector.ofFn fun c =>
    planeBit (record.getD r.val 0) (columnBit c.val) ||| (planeBit (record.getD (r.val + 8) 0) (columnBit c.val) <<< 1)

/-- `CHR[16t .. 16t+15]` (R211). -/
def tileRecord (chr : List Byte) (t : Nat) : List Byte :=
  (chr.drop (Config.tileBytes * t)).take Config.tileBytes

/-- The first `n` tiles of a tile block decoded into the table (R211). -/
def ingestFirst (m : TileTable) (chr : List Byte) : Nat → TileTable
  | 0 => m
  | n + 1 => (ingestFirst m chr n).set n (decodeTile (tileRecord chr n))

/-- `ingest_tiles(CHR)` (R211, 70_reset_and_hazards.md R284). -/
def State.ingestTiles (s : State) (chr : List Byte) : State :=
  s.setTiles (ingestFirst s.tiles chr (chr.length / Config.tileBytes))

/-! ## Render (R220) -/

/-- `T[r][c]`: the pixel in row `r`, 0 at the top, and column `c`, 0 at the left (R210). -/
def tilePixel (t : Tile) (r c : Fin 8) : Pixel := (t.get r).get c

/-- `F[y][x]` (R220). -/
def pixelAt (vram : Memory) (tiles : TileTable) (y x : Nat) : Pixel :=
  let cell := y / 8 * 32 + x / 8
  let e := vram.get (Config.ntBase + cell)
  tilePixel (tiles.get (Config.bgTileBase + e.toNat)) (Fin.ofNat 8 (y % 8)) (Fin.ofNat 8 (x % 8))

/-- A raster: `RASTER_H` rows of `RASTER_W` palette indices, `F[y][x]` written `F y x` (R220). -/
abbrev Raster := Fin Config.rasterH → Fin Config.rasterW → Pixel

/-- `render()`: a pure function of VRAM and the tiles; it changes no state (R220, R221). -/
def render (vram : Memory) (tiles : TileTable) : Raster := fun y x => pixelAt vram tiles y.val x.val

/-- What goes out on `frame_out`: the raster together with `GRAY_PALETTE` (R220). -/
structure Frame where
  raster : Raster
  palette : Pixel → Nat

/-- The frame of the current VRAM and tiles (R220). -/
def State.frame (s : State) : Frame where
  raster := render s.vram s.tiles
  palette := Config.grayPalette

/-- The displayed gray level of pixel (y, x) (R220). -/
def Frame.gray (f : Frame) (y : Fin Config.rasterH) (x : Fin Config.rasterW) : Nat :=
  f.palette (f.raster y x)

/-! ## Display hand-off (R222) -/

/-- The next answer of the host. DESIGN CHOICE: `Ready` after the last listed one (notes/assumptions/2.md, unsafe for
runs from `State.reset`). -/
def State.nextAnswer (s : State) : DisplayAnswer := s.display.headD .ready

/-- After `frame_out`: on `Ready` the next cycle begins, on `Closed` RUN becomes `Terminated` (R222). A host that never
answers leaves the block stuck inside the cycle (93 item 15; DEDUCED, notes/assumptions/3.md, safe). -/
def State.displayHandOff (s : State) : Host.Outcome State Fault Refusal :=
  match s.nextAnswer with
  | .ready => .next (s.setDisplay s.display.tail)
  | .closed => .next ((s.setDisplay s.display.tail).setRun .terminated)
  | .silent => .fault .displaySilent

end Sys2Proof.Machine
end

