-- ==== Sys2Proof/Machine/Boot.lean ====
section
/-! DEFINITION. Reset and the boot load (70_reset_and_hazards.md R280 to R287, 20_memory.md R68). The boot load is the host's
act, once, before the first cycle (R287); `powerOn` is the reset sequence with it (R280). -/

namespace Sys2Proof.Machine

/-- `load_program(bytes)`: an error that changes nothing above `PRG_MAX` bytes, else the bytes copied to `PRG_BASE` on
(R68). The reason `prgTooLarge` stands for the text "program too large" (DEDUCED, notes/assumptions/12.md, safe). -/
def loadProgram (m : Memory) (bytes : List Byte) : Except LoadReason Memory :=
  if Config.prgMax < bytes.length then .error .prgTooLarge else .ok (m.setBytes Config.prgBase bytes)

/-! ## The cartridge buffer (R281 to R283) -/

/-- Length of the header (R281). -/
def headerLength : Nat := 16

/-- The magic sequence (R281). -/
def magic : List Byte := [0x4E, 0x45, 0x53, 0x1A]

/-- `prg_len = 16384 * buf[4]` (R281; 90_conflicts.md C3). -/
def prgLen (buf : List Byte) : Nat := 16384 * (buf.getD 4 0).toNat

/-- `chr_len = 8192 * buf[5]` (R281). -/
def chrLen (buf : List Byte) : Nat := 8192 * (buf.getD 5 0).toNat

/-- `PRG` (R282). -/
def prgBlock (buf : List Byte) : List Byte := (buf.drop headerLength).take (prgLen buf)

/-- `CHR` (R282). -/
def chrBlock (buf : List Byte) : List Byte := (buf.drop (headerLength + prgLen buf)).take (chrLen buf)

/-- The checks of a buffer in their order: the first that fails names the reason (R283, D25). -/
def validate (buf : List Byte) : Option LoadReason :=
  if buf.length < headerLength then some .truncated
  else if buf.take 4 ≠ magic then some .badMagic
  else if buf.length < headerLength + prgLen buf + chrLen buf then some .truncated
  else if Config.prgMax < prgLen buf then some .prgTooLarge
  else if Config.tileCount * Config.tileBytes < chrLen buf then some .chrTooLarge
  else none

/-! ## The boot load (R284) -/

/-- `load_program(PRG)` and then `ingest_tiles(CHR)`; nothing else changes (R284). -/
def State.loadBlocks (s : State) (prg chr : List Byte) : Except LoadReason State :=
  match loadProgram s.mem prg with
  | .error reason => .error reason
  | .ok m => .ok ((s.setMem m).ingestTiles chr)

/-- The first failing check's reason, else both blocks of the buffer loaded (R283, R284). -/
def State.loadCartridge (s : State) (buf : List Byte) : Except LoadReason State :=
  match validate buf with
  | some reason => .error reason
  | none => s.loadBlocks (prgBlock buf) (chrBlock buf)

/-- How a boot load from `s` ends: in the loaded state, or with fault entry in `s` (60_exceptions.md R254, R257). -/
def State.endBoot (s : State) : Except LoadReason State → State
  | .ok t => t
  | .error reason => s.raise (.loadError reason)

/-- `fault_out` of a boot load (60_exceptions.md R254, R257). -/
def bootFault : Except LoadReason State → Option FaultRecord
  | .ok _ => none
  | .error reason => some (.loadError reason)

/-- The boot load of a cartridge buffer (R283, R284). -/
def State.bootCartridge (s : State) (buf : List Byte) : State := s.endBoot (s.loadCartridge buf)

/-- `fault_out` of the boot load of a cartridge buffer (60_exceptions.md R257). -/
def State.bootCartridgeFaultOut (s : State) (buf : List Byte) : Option FaultRecord := bootFault (s.loadCartridge buf)

/-- The boot load of two blocks handed over directly; a pair out of limits is refused (R284). -/
def State.bootBlocks (s : State) (prg chr : List Byte) : Host.Outcome State Fault Refusal :=
  if blockPairWf prg chr then .next (s.endBoot (s.loadBlocks prg chr)) else .refused .illegalBlockPair

/-- `fault_out` of the boot load of two blocks (60_exceptions.md R257); a refused pair sends nothing. -/
def State.bootBlocksFaultOut (s : State) (prg chr : List Byte) : Option FaultRecord :=
  if blockPairWf prg chr then bootFault (s.loadBlocks prg chr) else none

/-- The reset sequence up to the first cycle: reset values, then the boot load (R280). A dispatch ROM that is no legal
configuration is refused before the first cycle (30_encoding.md R93). -/
def powerOnWith (rom : Rom) (draw : ResetDraw) (display : List DisplayAnswer) (buf : List Byte) :
    Host.Outcome State Fault Refusal :=
  if rom.wf then .next ((State.resetWith draw display).bootCartridge buf) else .refused .illegalDispatchRom

/-- `fault_out` of the reset sequence (R280; 60_exceptions.md R254, R257); with a refused ROM nothing goes out. -/
def powerOnFaultOut (rom : Rom) (draw : ResetDraw) (display : List DisplayAnswer) (buf : List Byte) :
    Option FaultRecord :=
  if rom.wf then (State.resetWith draw display).bootCartridgeFaultOut buf else none

/-- The reset sequence with the ROM of R81. -/
def powerOn (draw : ResetDraw) (display : List DisplayAnswer) (buf : List Byte) : Host.Outcome State Fault Refusal :=
  powerOnWith opcodeTable draw display buf

end Sys2Proof.Machine
end

