-- ==== Sys2Proof/Machine/Operands.lean ====
section
/-! DEFINITION. What each addressing mode yields for the instruction rule (30_encoding.md R87). The operand bytes are
assembled by the decoder (`absOperand`, R86). -/

namespace Sys2Proof.Machine

/-- Immediate: the value itself, not extended (R87). -/
def immediateValue (imm : Byte) : Byte := imm

/-- Relative: the displacement, sign-extended to 16 bits (R86, R87). -/
def relativeOffset (off : Byte) : Word := sext16 off

/-- Absolute: `ea = abs` (R87). -/
def eaAbsolute (abs : Word) : Word := abs

/-- AbsoluteIndexedX: `ea = (abs + zext_16(X)) mod 2^16`; the carry out of bit 7 propagates (R87, D18). -/
def State.eaAbsoluteX (s : State) (abs : Word) : Word := abs + s.x.setWidth 16

/-- `offset_pc_signed(delta)`: adds the sign-extended displacement to PC mod 2^16 (10_state.md R26). -/
def State.offsetPcSigned (s : State) (delta : Byte) : State := s.setPc (s.pc + relativeOffset delta)

end Sys2Proof.Machine
end

