-- ==== Sys2Proof/Machine/ControlTransfer.lean ====
section
/-! DEFINITION. Control transfer (40_control_transfer.md). -/

namespace Sys2Proof.Machine

/-- JMP absolute: PC is set to the target, with no advance (R120). -/
def execJmpAbs (target : Word) (s : State) : Host.Outcome State Fault Refusal :=
  .next (s.setPc (eaAbsolute target))

/-- BNE relative: advance by the length, then add the displacement when `P.Z` is false (R122). -/
def execBneRel (off : Byte) (s : State) : Host.Outcome State Fault Refusal :=
  let t := s.advancePc Mode.relative.length
  .next (if s.p.z then t else t.offsetPcSigned off)

end Sys2Proof.Machine
end

