-- ==== Sys2Proof/Machine/Flags.lean ====
section
/-! DEFINITION. The flag computations (30_encoding.md R95, 41_status_flag.md R140). Only an instruction's rule writes a
flag (10_state.md R31). -/

namespace Sys2Proof.Machine

/-- `NZ(v)`: writes exactly `P.Z` and `P.N` (R95). -/
def State.nz (s : State) (v : Byte) : State :=
  s.setP { s.p with z := decide (v = 0), n := v.getLsbD Config.nBit }

/-- `P.I <- true` (R140). -/
def State.setInterruptDisable (s : State) : State := s.setP { s.p with i := true }

end Sys2Proof.Machine
end

