-- ==== Sys2Proof/Machine/LoadStore.lean ====
section
/-! DEFINITION. Loads and stores (43_load_store.md): one byte each, unchanged on its way (R170). What a store to the I/O
window does to the PPU happens later in the cycle, through the snapshot (20_memory.md R56). -/

namespace Sys2Proof.Machine

/-- LDY immediate (R172). -/
def execLdyImm (imm : Byte) (s : State) : Host.Outcome State Fault Refusal :=
  let v := immediateValue imm
  .next (((s.setY v).nz v).advancePc Mode.immediate.length)

/-- LDX immediate (R174). -/
def execLdxImm (imm : Byte) (s : State) : Host.Outcome State Fault Refusal :=
  let v := immediateValue imm
  .next (((s.setX v).nz v).advancePc Mode.immediate.length)

/-- LDA immediate (R176). -/
def execLdaImm (imm : Byte) (s : State) : Host.Outcome State Fault Refusal :=
  let v := immediateValue imm
  .next (((s.setA v).nz v).advancePc Mode.immediate.length)

/-- LDA absolute indexed by X (R178). -/
def execLdaAbsX (base : Word) (s : State) : Host.Outcome State Fault Refusal :=
  let v := s.readMem (s.eaAbsoluteX base)
  .next (((s.setA v).nz v).advancePc Mode.absoluteIndexedX.length)

/-- STA absolute: no flag changes (R180). -/
def execStaAbs (addr : Word) (s : State) : Host.Outcome State Fault Refusal :=
  .next ((s.writeMem (eaAbsolute addr) s.a).advancePc Mode.absolute.length)

end Sys2Proof.Machine
end

