-- ==== Sys2Proof/Machine/RegisterOps.lean ====
section
/-! DEFINITION. Register operations (42_register_ops.md): results mod 2^8, no carry and no overflow recorded (R150). -/

namespace Sys2Proof.Machine

/-- DEY (R152). -/
def execDey (s : State) : Host.Outcome State Fault Refusal :=
  let v := s.y - 1
  .next (((s.setY v).nz v).advancePc Mode.implied.length)

/-- TSX (R154). -/
def execTsx (s : State) : Host.Outcome State Fault Refusal :=
  let v := s.sp
  .next (((s.setX v).nz v).advancePc Mode.implied.length)

/-- INX (R156). -/
def execInx (s : State) : Host.Outcome State Fault Refusal :=
  let v := s.x + 1
  .next (((s.setX v).nz v).advancePc Mode.implied.length)

end Sys2Proof.Machine
end

