-- ==== Sys2Proof/Machine/StatusFlag.lean ====
section
/-! DEFINITION. The status-flag instruction (41_status_flag.md). -/

namespace Sys2Proof.Machine

/-- SEI: `P.I <- true`, advance (R140). -/
def execSei (s : State) : Host.Outcome State Fault Refusal :=
  .next (s.setInterruptDisable.advancePc Mode.implied.length)

end Sys2Proof.Machine
end

