-- ==== Sys2Proof/Machine/Dispatch.lean ====
section
/-! DEFINITION. The rule of each instruction (30_encoding.md R100, "execute the rule of (mn, mode)"). It runs the rule
alone: the run state, the PPU and the display are the cycle's (Sys2Proof/Machine/Cycle.lean; DESIGN CHOICE,
notes/assumptions/11.md). -/

namespace Sys2Proof.Machine

def exec (i : Instr) (s : State) : Host.Outcome State Fault Refusal :=
  match i with
  | .jmpAbs target => Sys2Proof.Machine.execJmpAbs target s
  | .sei => Sys2Proof.Machine.execSei s
  | .dey => Sys2Proof.Machine.execDey s
  | .tsx => Sys2Proof.Machine.execTsx s
  | .ldyImm imm => Sys2Proof.Machine.execLdyImm imm s
  | .ldxImm imm => Sys2Proof.Machine.execLdxImm imm s
  | .ldaImm imm => Sys2Proof.Machine.execLdaImm imm s
  | .ldaAbsX base => Sys2Proof.Machine.execLdaAbsX base s
  | .staAbs addr => Sys2Proof.Machine.execStaAbs addr s
  | .inx => Sys2Proof.Machine.execInx s
  | .bneRel off => Sys2Proof.Machine.execBneRel off s

end Sys2Proof.Machine
end

