-- ==== Sys2Proof/Machine/Cycle.lean ====
section
/-! DEFINITION. The cycle (30_encoding.md R100): fetch, decode, execute, snapshot, PPU update, clear, render, display
answer, over any dispatch ROM. -/

namespace Sys2Proof.Machine

/-- Fetch and decode at PC: B0, B1 and B2 are the bytes at PC, PC + 1 and PC + 2 mod 2^16 (R85, R86, R92). -/
def State.fetch (s : State) (rom : Rom) : Dispatched :=
  dispatch rom (s.readMem s.pc) (s.readMem (s.pc + 1)) (s.readMem (s.pc + 2))

/-- Step 4 of the cycle up to the render, in the cycle of the instruction `op` at `pc0`: snapshot, PPU update, clear
(R100; 20_memory.md R60, R61). -/
def State.updatePpu (s : State) (op : Byte) (pc0 : Word) : Phase :=
  match s.ppuUpdate op pc0 s.snapshot with
  | .done t => .done t.clearWindow
  | .raised r t => .raised r t
  | .stuck f => .stuck f
  | .refused r => .refused r

/-- What follows the rule of the instruction `op` at `pc0` in its cycle, before the render (R100). -/
def afterRule (op : Byte) (pc0 : Word) : Host.Outcome State Fault Refusal → Phase
  | .next t => t.updatePpu op pc0
  | .fault f => .stuck f
  | .refused r => .refused r

/-- One cycle up to the render; it runs only while RUN is `Running` (R100, 10_state.md R37). Of the faults the first that
applies is raised (60_exceptions.md R256). -/
def State.cycleToRender (s : State) (rom : Rom) : Phase :=
  match s.run with
  | .stopped r => .stuck (.blockStopped r)
  | .terminated => .stuck .blockTerminated
  | .running =>
    match s.fetch rom with
    | .absent => .raised (.decodeError (s.readMem s.pc) s.pc) s
    | .noHandler => .raised (.unimplementedInstruction (s.readMem s.pc) s.pc) s
    | .instr i => afterRule (s.readMem s.pc) s.pc (exec i s)

/-- The end of a cycle: the display answer where a frame was rendered (50_ppu.md R222), fault entry where a fault was
raised (60_exceptions.md R257). -/
def Phase.finish : Phase → Host.Outcome State Fault Refusal
  | .done t => t.displayHandOff
  | .raised r t => .next (t.raise r)
  | .stuck f => .fault f
  | .refused r => .refused r

/-- One whole cycle with a given dispatch ROM (R100). -/
def State.cycle (s : State) (rom : Rom) : Host.Outcome State Fault Refusal := (s.cycleToRender rom).finish

/-- `frame_out` of the cycle from `s`: the frame of the VRAM and tiles as the cycle's PPU update left them, in a cycle
that raises no fault (50_ppu.md R220, R221; 70_reset_and_hazards.md R296). -/
def State.frameOut (s : State) (rom : Rom) : Option Frame :=
  match s.cycleToRender rom with
  | .done t => some t.frame
  | .raised _ _ => none
  | .stuck _ => none
  | .refused _ => none

/-- `fault_out` of the cycle from `s` (60_exceptions.md R257); its code is `FaultRecord.code`. -/
def State.faultOut (s : State) (rom : Rom) : Option FaultRecord :=
  match s.cycleToRender rom with
  | .done _ => none
  | .raised r _ => some r
  | .stuck _ => none
  | .refused _ => none

/-- An instruction's bytes stored where the next fetch reads: the three bytes of `w`, low byte first, at PC, PC + 1 and
PC + 2. -/
def State.placeWord (s : State) (w : Nat) : State :=
  ((s.writeMem s.pc (BitVec.ofNat 8 w)).writeMem (s.pc + 1) (BitVec.ofNat 8 (w / 256))).writeMem (s.pc + 2)
    (BitVec.ofNat 8 (w / 65536))

end Sys2Proof.Machine
end

