-- ==== Sys2Proof/Machine/Step.lean ====
section
/-! DEFINITION. The step: one cycle (30_encoding.md R100) with the dispatch ROM of R81. -/

namespace Sys2Proof.Machine

/-- One cycle of the block. -/
def step (s : State) : Host.Outcome State Fault Refusal := s.cycle opcodeTable

/-- `s` with the instruction of bits `w` (the bits above `nbits` zero) where the next fetch reads it, and RUN `Running`,
without which nothing is fetched. It stands for a boot load from outside (notes/assumptions/6.md). -/
def State.withFetchWord (s : State) (nbits w : Nat) : State :=
  (s.placeWord (w % 2 ^ nbits)).setRun .running

end Sys2Proof.Machine
end

