-- ==== Sys2Proof/Safety.lean ====
section
/-! DEFINITION. The terms that statements about runs use: the invariant of the machine, a host that answers, a state that
has raised no fault. -/

namespace Sys2Proof.Machine

/-- The state a step answers, if it answers one. -/
def nextState? : Host.Outcome State Fault Refusal → Option State
  | .next s => some s
  | .fault _ => none
  | .refused _ => none

/-- No fault has stopped the block (60_exceptions.md R257). -/
def State.unfaulted (s : State) : Prop := ∀ r, s.run ≠ .stopped r

/-- The host answers at the end of the coming cycle: the fairness premise of 70_reset_and_hazards.md R297. -/
def State.hostAnswers (s : State) : Prop := s.nextAnswer ≠ .silent

/-- Every byte of the I/O window is 0x00 (20_memory.md R62). -/
def State.windowClear (s : State) : Prop := ∀ i : Fin Config.ioLen, s.readMem (windowAddr i) = 0

/-- The invariant: the three arrays are in their canonical form, and the window is clear between cycles unless a
VramRangeError has stopped the block with the window not cleared (20_memory.md R62, 60_exceptions.md R253). -/
structure State.Inv (s : State) : Prop where
  mem_wf : s.mem.wf = true
  vram_wf : s.vram.wfSize Config.vramSize = true
  tiles_wf : s.tiles.wf = true
  window_clear : (∀ op pc0 v, s.run ≠ .stopped (.vramRangeError op pc0 v)) → s.windowClear

end Sys2Proof.Machine
end

