-- ==== Sys2Proof/Certificates/Slice0/Obligations.lean ====
section
/-! DEFINITION. The statements for the provers. Each docstring names the rules of spec/ that the statement formalises. -/

open Sys2Proof Sys2Proof.Machine

/-! ## Encoding and dispatch (30_encoding.md) -/

/-- R81, R84: the dispatch ROM holds exactly the eleven rows, and each mode has its length. -/
def Obligations.DispatchRomHoldsTheElevenRows : Prop :=
  (∀ op : Byte, lookup opcodeTable op =
    if op = 0x4C then some (.jmp, .absolute)
    else if op = 0x78 then some (.sei, .implied)
    else if op = 0x88 then some (.dey, .implied)
    else if op = 0xBA then some (.tsx, .implied)
    else if op = 0xA0 then some (.ldy, .immediate)
    else if op = 0xA2 then some (.ldx, .immediate)
    else if op = 0xA9 then some (.lda, .immediate)
    else if op = 0xBD then some (.lda, .absoluteIndexedX)
    else if op = 0x8D then some (.sta, .absolute)
    else if op = 0xE8 then some (.inx, .implied)
    else if op = 0xD0 then some (.bne, .relative)
    else none) ∧
  Mode.implied.length = 1 ∧ Mode.immediate.length = 2 ∧ Mode.relative.length = 2 ∧ Mode.absolute.length = 3 ∧
    Mode.absoluteIndexedX.length = 3

/-- R82, R251: 245 byte values are absent, 0x00 among them, and fetching one raises DecodeError with the byte and PC as
its record, with no other state changed and no frame; so does any fetch from the I/O window. -/
def Obligations.AbsentByteRaisesDecodeError : Prop :=
  ((List.range 256).filter fun n => (lookup opcodeTable (BitVec.ofNat 8 n)).isNone).length = 245 ∧
  lookup opcodeTable 0x00 = none ∧
  (∀ s : State, s.run = .running → lookup opcodeTable (s.readMem s.pc) = none →
    step s = .next { s with run := .stopped (.decodeError (s.readMem s.pc) s.pc) } ∧
    s.frameOut opcodeTable = none ∧ s.faultOut opcodeTable = some (.decodeError (s.readMem s.pc) s.pc)) ∧
  (∀ s : State, s.Inv → s.run = .running → region s.pc = .ioWindow →
    step s = .next { s with run := .stopped (.decodeError 0x00 s.pc) })

/-- From R81, R85 and R86: decoding the encoding of any instruction, with any bytes after it, gives the instruction and
those bytes, with every operand at every value. -/
def Obligations.DecodeInvertsEncode : Prop :=
  ∀ (i : Instr) (rest : List Byte), i.wf = true → decode (encode i ++ rest) = .ok (i, rest)

/-- From R80, R85 and R88: whatever decodes is the encoding of what it decodes to, so each word has one meaning and the
opcode byte alone decides the length. -/
def Obligations.EncodeInvertsDecode : Prop :=
  ∀ (bs : List Byte) (i : Instr) (rest : List Byte), decode bs = .ok (i, rest) → encode i ++ rest = bs

/-- Words written out from R81 and R85, at least one for every row, decode to the instruction they stand for; bytes of
other 6502 instructions are absent. -/
def Obligations.WrittenWordsDecode : Prop :=
  decode [0x4C, 0x34, 0x12] = .ok (.jmpAbs 0x1234, []) ∧
  decode [0xD0, 0xFC] = .ok (.bneRel 0xFC, []) ∧
  decode [0x78] = .ok (.sei, []) ∧
  decode [0x88] = .ok (.dey, []) ∧
  decode [0xBA] = .ok (.tsx, []) ∧
  decode [0xE8] = .ok (.inx, []) ∧
  decode [0xA0, 0x03] = .ok (.ldyImm 0x03, []) ∧
  decode [0xA2, 0xFF] = .ok (.ldxImm 0xFF, []) ∧
  decode [0xA9, 0x40] = .ok (.ldaImm 0x40, []) ∧
  decode [0xBD, 0x00, 0x03] = .ok (.ldaAbsX 0x0300, []) ∧
  decode [0x8D, 0x06, 0x20] = .ok (.staAbs 0x2006, []) ∧
  decode [0x9A] = .error (.absent 0x9A) ∧
  decode [0x4C, 0x34] = .error (.truncated 0x4C)

/-- R93: a dispatch ROM is legal exactly when no byte has two entries; then each of its rows is what its byte selects;
an illegal one is refused before the first cycle. The ROM of R81 is legal. -/
def Obligations.LegalRomHasOneEntryPerByte : Prop :=
  (∀ rom : Rom, rom.wf = true ↔ (rom.map RomRow.byte).Nodup) ∧
  (∀ rom : Rom, rom.wf = true → ∀ row ∈ rom, lookup rom row.byte = some (row.mnemonic, row.mode)) ∧
  (∀ (rom : Rom) draw display buf, rom.wf = false →
    powerOnWith rom draw display buf = .refused .illegalDispatchRom) ∧
  opcodeTable.wf = true

/-- R92, R252: exactly the eleven pairs of R81 have a handler; a byte that is present with another pair raises
UnimplementedInstruction with no other state changed; with the ROM of R81 that cannot happen. -/
def Obligations.PairWithoutHandlerIsUnimplemented : Prop :=
  (∀ mn mode b1 b2, (handler mn mode b1 b2).isSome = true ↔
    (mn, mode) ∈ opcodeTable.map fun row => (row.mnemonic, row.mode)) ∧
  (∀ (rom : Rom) (s : State) mn mode, s.run = .running → lookup rom (s.readMem s.pc) = some (mn, mode) →
    (mn, mode) ∉ (opcodeTable.map fun row => (row.mnemonic, row.mode)) →
    s.cycle rom = .next { s with run := .stopped (.unimplementedInstruction (s.readMem s.pc) s.pc) }) ∧
  (∀ b0 b1 b2, dispatch opcodeTable b0 b1 b2 ≠ .noHandler)

/-- From R90 and R122: the displacement the assembler computes for a BNE at `addr` takes the branch to its target, and
there is one exactly for targets -128 to +127 bytes from the BNE's end address. -/
def Obligations.AssembledBranchReachesItsTarget : Prop :=
  (∀ (addr target : Word) (off : Byte) (s : State), branchOffset addr target = some off → s.p.z = false →
    ∃ t, exec (.bneRel off) { s with pc := addr } = .next t ∧ t.pc = target) ∧
  (∀ addr target : Word, (branchOffset addr target).isSome = true ↔
    -128 ≤ (target - (addr + 2)).toInt ∧ (target - (addr + 2)).toInt ≤ 127)

/-! ## The cycle (30_encoding.md R100) -/

/-- From R100: when the bytes at PC decode to an instruction, a step of a running block is that instruction's rule
followed by the snapshot, the PPU update, the clear and the display answer, or by fault entry where the update raises. -/
def Obligations.StepRunsTheDecodedInstruction : Prop :=
  ∀ (s : State) (i : Instr) (rest : List Byte), s.run = .running →
    decode [s.readMem s.pc, s.readMem (s.pc + 1), s.readMem (s.pc + 2)] = .ok (i, rest) →
    s.fetch opcodeTable = .instr i ∧
    step s =
      match exec i s with
      | .next t =>
        match t.ppuUpdate (s.readMem s.pc) s.pc t.snapshot with
        | .done u => u.clearWindow.displayHandOff
        | .raised r u => .next (u.raise r)
        | .stuck f => .fault f
        | .refused r => .refused r
      | .fault f => .fault f
      | .refused r => .refused r

/-- From R37 and R258: no cycle runs from `Stopped` or `Terminated`, and nothing goes out. That the step then answers a
fault of the model is the model's convention (notes/assumptions/4.md). -/
def Obligations.FinalRunStatesRunNoCycle : Prop :=
  (∀ (s : State) r, s.run = .stopped r → step s = .fault (.blockStopped r) ∧
    s.frameOut opcodeTable = none ∧ s.faultOut opcodeTable = none) ∧
  (∀ s : State, s.run = .terminated → step s = .fault .blockTerminated ∧
    s.frameOut opcodeTable = none ∧ s.faultOut opcodeTable = none)

/-- From R222: after the frame, `Ready` lets the next cycle begin and `Closed` ends the run as `Terminated`, with no
fault; the answer is consumed. R297: a host that never answers leaves the block stuck inside the cycle. The list of
answers and the named fault are the model's (notes/assumptions/2.md, notes/assumptions/3.md). -/
def Obligations.DisplayAnswerEndsTheCycle : Prop :=
  ∀ s u : State, s.cycleToRender opcodeTable = .done u →
    (∃ f, s.frameOut opcodeTable = some f ∧ f.raster = render u.vram u.tiles) ∧
    s.faultOut opcodeTable = none ∧
    u.run = .running ∧
    (s.nextAnswer = .ready → step s = .next { u with display := s.display.tail }) ∧
    (s.nextAnswer = .closed → step s = .next { u with display := s.display.tail, run := .terminated }) ∧
    (s.nextAnswer = .silent → step s = .fault .displaySilent)

/-- From R297 and R102: with the fairness premise that the host answers, every cycle of a running block ends in a next
state. -/
def Obligations.RunningCycleEndsWhenTheHostAnswers : Prop :=
  ∀ s : State, s.run = .running → s.hostAnswers → ∃ t, step s = .next t

/-! ## Flags and instructions: result, completion and frame (40 to 43) -/

/-- R95: `NZ(v)` writes exactly `P.Z` and `P.N`, and no register. -/
def Obligations.NzWritesExactlyTwoFlags : Prop :=
  ∀ (s : State) (v : Byte), s.nz v = { s with p := { s.p with z := decide (v = 0x00), n := v.getLsbD 7 } }

/-- R120: JMP absolute. -/
def Obligations.JmpAbsoluteSetsPc : Prop :=
  ∀ s : State,
    (s.readMem s.pc = 0x4C →
      s.fetch opcodeTable = .instr (.jmpAbs (BitVec.append (s.readMem (s.pc + 2)) (s.readMem (s.pc + 1))))) ∧
    ∀ target, exec (.jmpAbs target) s = .next { s with pc := target }

/-- R122: BNE relative. -/
def Obligations.BneRelativeBranchesWhenZIsFalse : Prop :=
  ∀ s : State,
    (s.readMem s.pc = 0xD0 → s.fetch opcodeTable = .instr (.bneRel (s.readMem (s.pc + 1)))) ∧
    ∀ off, exec (.bneRel off) s =
      .next { s with pc := if s.p.z = false then s.pc + 2 + off.signExtend 16 else s.pc + 2 }

/-- R140: SEI. -/
def Obligations.SeiSetsInterruptDisable : Prop :=
  ∀ s : State,
    (s.readMem s.pc = 0x78 → s.fetch opcodeTable = .instr .sei) ∧
    exec .sei s = .next { s with p := { s.p with i := true }, pc := s.pc + 1 }

/-- R152: DEY. -/
def Obligations.DeyDecrementsY : Prop :=
  ∀ s : State,
    (s.readMem s.pc = 0x88 → s.fetch opcodeTable = .instr .dey) ∧
    exec .dey s = .next { s with
      y := s.y - 1
      p := { s.p with z := decide (s.y - 1 = 0x00), n := (s.y - 1).getLsbD 7 }
      pc := s.pc + 1 }

/-- R154: TSX, for every value of SP. -/
def Obligations.TsxCopiesSpToX : Prop :=
  ∀ s : State,
    (s.readMem s.pc = 0xBA → s.fetch opcodeTable = .instr .tsx) ∧
    exec .tsx s = .next { s with
      x := s.sp
      p := { s.p with z := decide (s.sp = 0x00), n := s.sp.getLsbD 7 }
      pc := s.pc + 1 }

/-- R156: INX. -/
def Obligations.InxIncrementsX : Prop :=
  ∀ s : State,
    (s.readMem s.pc = 0xE8 → s.fetch opcodeTable = .instr .inx) ∧
    exec .inx s = .next { s with
      x := s.x + 1
      p := { s.p with z := decide (s.x + 1 = 0x00), n := (s.x + 1).getLsbD 7 }
      pc := s.pc + 1 }

/-- R172: LDY immediate. -/
def Obligations.LdyImmediateLoadsY : Prop :=
  ∀ s : State,
    (s.readMem s.pc = 0xA0 → s.fetch opcodeTable = .instr (.ldyImm (s.readMem (s.pc + 1)))) ∧
    ∀ v, exec (.ldyImm v) s = .next { s with
      y := v
      p := { s.p with z := decide (v = 0x00), n := v.getLsbD 7 }
      pc := s.pc + 2 }

/-- R174: LDX immediate. -/
def Obligations.LdxImmediateLoadsX : Prop :=
  ∀ s : State,
    (s.readMem s.pc = 0xA2 → s.fetch opcodeTable = .instr (.ldxImm (s.readMem (s.pc + 1)))) ∧
    ∀ v, exec (.ldxImm v) s = .next { s with
      x := v
      p := { s.p with z := decide (v = 0x00), n := v.getLsbD 7 }
      pc := s.pc + 2 }

/-- R176: LDA immediate. -/
def Obligations.LdaImmediateLoadsA : Prop :=
  ∀ s : State,
    (s.readMem s.pc = 0xA9 → s.fetch opcodeTable = .instr (.ldaImm (s.readMem (s.pc + 1)))) ∧
    ∀ v, exec (.ldaImm v) s = .next { s with
      a := v
      p := { s.p with z := decide (v = 0x00), n := v.getLsbD 7 }
      pc := s.pc + 2 }

/-- R178: LDA absolute indexed by X; the sum wraps at 2^16. -/
def Obligations.LdaAbsoluteIndexedXLoadsA : Prop :=
  ∀ s : State,
    (s.readMem s.pc = 0xBD →
      s.fetch opcodeTable = .instr (.ldaAbsX (BitVec.append (s.readMem (s.pc + 2)) (s.readMem (s.pc + 1))))) ∧
    ∀ (base : Word) (v : Byte), s.readMem (BitVec.ofNat 16 (base.toNat + s.x.toNat)) = v →
      exec (.ldaAbsX base) s = .next { s with
        a := v
        p := { s.p with z := decide (v = 0x00), n := v.getLsbD 7 }
        pc := s.pc + 3 }

/-- R180: STA absolute stores A and writes no flag and no register but PC. -/
def Obligations.StaAbsoluteStoresA : Prop :=
  ∀ s : State,
    (s.readMem s.pc = 0x8D →
      s.fetch opcodeTable = .instr (.staAbs (BitVec.append (s.readMem (s.pc + 2)) (s.readMem (s.pc + 1))))) ∧
    ∀ addr, exec (.staAbs addr) s = .next { s with mem := s.mem.set addr.toNat s.a, pc := s.pc + 3 }

/-- From R56 and R180: the store of STA reaches the byte at its effective address, in every region, and no other byte of
`M`; the memory keeps its canonical form. -/
def Obligations.StoreReachesOneByteOnly : Prop :=
  ∀ (addr : Word) (s : State), s.mem.wf = true →
    ∃ t, exec (.staAbs addr) s = .next t ∧ t.mem.wf = true ∧ t.readMem (eaAbsolute addr) = s.a ∧
      ∀ k, k ≠ eaAbsolute addr → t.readMem k = s.readMem k

/-- From R27: which instructions write A, X, Y and SP. -/
def Obligations.RegisterWritersAreTheTable : Prop :=
  ∀ (i : Instr) (s t : State), exec i s = .next t →
    ((∀ v, i ≠ .ldaImm v) → (∀ base, i ≠ .ldaAbsX base) → t.a = s.a) ∧
    ((∀ v, i ≠ .ldxImm v) → i ≠ .tsx → i ≠ .inx → t.x = s.x) ∧
    ((∀ v, i ≠ .ldyImm v) → i ≠ .dey → t.y = s.y) ∧
    t.sp = s.sp

/-- From R27: an instruction outside a register's read column behaves alike whatever that register holds, and its result
does not depend on the old value at all where it writes the register. -/
def Obligations.RegisterReadersAreTheTable : Prop :=
  ∀ (i : Instr) (s t : State) (v : Byte), exec i s = .next t →
    ((∀ addr, i ≠ .staAbs addr) →
      ∃ t', exec i { s with a := v } = .next t' ∧ { t' with a := t.a } = t) ∧
    ((∃ imm, i = .ldaImm imm) ∨ (∃ base, i = .ldaAbsX base) → exec i { s with a := v } = .next t) ∧
    (i ≠ .inx → (∀ base, i ≠ .ldaAbsX base) →
      ∃ t', exec i { s with x := v } = .next t' ∧ { t' with x := t.x } = t) ∧
    ((∃ imm, i = .ldxImm imm) ∨ i = .tsx → exec i { s with x := v } = .next t) ∧
    (i ≠ .dey → ∃ t', exec i { s with y := v } = .next t' ∧ { t' with y := t.y } = t) ∧
    ((∃ imm, i = .ldyImm imm) → exec i { s with y := v } = .next t) ∧
    (i ≠ .tsx → ∃ t', exec i { s with sp := v } = .next t' ∧ { t' with sp := t.sp } = t)

/-- R29: which instructions write which flags, and that BNE alone reads one, `P.Z`. -/
def Obligations.FlagWritersAndReadersAreTheTable : Prop :=
  (∀ (i : Instr) (s t : State), exec i s = .next t →
    t.p.c = s.p.c ∧ t.p.d = s.p.d ∧ t.p.b = s.p.b ∧ t.p.v = s.p.v ∧
    match i with
    | .jmpAbs _ => t.p = s.p
    | .bneRel _ => t.p = s.p
    | .staAbs _ => t.p = s.p
    | .sei => t.p = { s.p with i := true }
    | .ldyImm _ => t.p = { s.p with z := decide (t.y = 0x00), n := t.y.getLsbD 7 }
    | .dey => t.p = { s.p with z := decide (t.y = 0x00), n := t.y.getLsbD 7 }
    | .ldxImm _ => t.p = { s.p with z := decide (t.x = 0x00), n := t.x.getLsbD 7 }
    | .tsx => t.p = { s.p with z := decide (t.x = 0x00), n := t.x.getLsbD 7 }
    | .inx => t.p = { s.p with z := decide (t.x = 0x00), n := t.x.getLsbD 7 }
    | .ldaImm _ => t.p = { s.p with z := decide (t.a = 0x00), n := t.a.getLsbD 7 }
    | .ldaAbsX _ => t.p = { s.p with z := decide (t.a = 0x00), n := t.a.getLsbD 7 }) ∧
  (∀ (i : Instr) (s t : State) (q : Flags), exec i s = .next t → (∀ off, i ≠ .bneRel off) →
    ∃ t', exec i { s with p := q } = .next t' ∧ { t' with p := t.p } = t) ∧
  (∀ (off : Byte) (s t : State) (q : Flags), exec (.bneRel off) s = .next t → q.z = s.p.z →
    exec (.bneRel off) { s with p := q } = .next { t with p := q })

/-- From R32, R37, R200 and R180: no instruction's rule touches VRAM, VPTR, TILES, RUN or the host's answers, and only
STA changes `M`. -/
def Obligations.RulesLeaveThePpuAloneAndOnlyStaStores : Prop :=
  ∀ (i : Instr) (s t : State), exec i s = .next t →
    t.vram = s.vram ∧ t.vptr = s.vptr ∧ t.tiles = s.tiles ∧ t.run = s.run ∧ t.display = s.display ∧
    ((∀ addr, i ≠ .staAbs addr) → ∀ k, t.readMem k = s.readMem k)

/-! ## Memory and the I/O window (20_memory.md) -/

/-- From R51: every address falls in exactly one of the four regions, at the addresses given. -/
def Obligations.EveryAddressHasOneRegion : Prop :=
  ∀ k : Word,
    (region k = .lowRam ↔ k.toNat ≤ 0x1FFF) ∧
    (region k = .ioWindow ↔ 0x2000 ≤ k.toNat ∧ k.toNat ≤ 0x2007) ∧
    (region k = .midRam ↔ 0x2008 ≤ k.toNat ∧ k.toNat ≤ 0x7FFF) ∧
    (region k = .programRegion ↔ 0x8000 ≤ k.toNat)

/-- From R62, R33, R34 and R36: every step keeps the invariant, from every state that meets it: the three arrays in
canonical form, and the window clear unless a VramRangeError stopped the block. -/
def Obligations.StepKeepsTheInvariant : Prop :=
  ∀ s t : State, s.Inv → step s = .next t → t.Inv

/-- From R40: reset meets the invariant, for every draw and every host. -/
def Obligations.ResetMeetsTheInvariant : Prop :=
  ∀ draw display, (State.resetWith draw display).Inv

/-- From R284 and R285: the boot load from reset, of a cartridge buffer or of two blocks, meets the invariant, whether it
loads or raises LoadError. -/
def Obligations.BootMeetsTheInvariant : Prop :=
  (∀ rom draw display buf s, powerOnWith rom draw display buf = .next s → s.Inv) ∧
  (∀ draw display prg chr s, (State.resetWith draw display).bootBlocks prg chr = .next s → s.Inv)

/-- From R62, in a running state that meets the invariant: a load from the window gives 0x00, a fetch from the window
raises DecodeError, and the snapshot holds what the instruction stored to the window and 0x00 elsewhere. -/
def Obligations.WindowIsClearAtInstructionStart : Prop :=
  ∀ s : State, s.Inv → s.run = .running →
    (∀ base, region (s.eaAbsoluteX base) = .ioWindow →
      ∃ t, exec (.ldaAbsX base) s = .next t ∧ t.a = 0x00 ∧ t.p.z = true ∧ t.p.n = false) ∧
    (region s.pc = .ioWindow → step s = .next { s with run := .stopped (.decodeError 0x00 s.pc) }) ∧
    (∀ (i : Instr) (t : State) (j : Fin 8), exec i s = .next t →
      t.snapshot[j] = if i = .staAbs (windowAddr j) then s.a else 0x00)

/-- From R60, R61 and R64: after a cycle without fault every byte of the window is 0x00 and every other byte of `M` is as
the instruction left it. -/
def Obligations.CycleClearsTheWindowAndNothingElse : Prop :=
  ∀ (s t u : State) (i : Instr), s.mem.wf = true → s.fetch opcodeTable = .instr i → exec i s = .next t →
    step s = .next u → u.unfaulted →
    ∀ k, u.readMem k = if region k = .ioWindow then 0x00 else t.readMem k

/-- R204: a snapshot has at most one nonzero byte, so at most one port acts in a cycle. -/
def Obligations.AtMostOnePortActs : Prop :=
  ∀ (s t : State) (i : Instr), s.Inv → s.run = .running → exec i s = .next t →
    (∀ j k : Fin 8, t.snapshot[j] ≠ 0x00 → t.snapshot[k] ≠ 0x00 → j = k) ∧
    (t.snapshot[Config.portAddr] = 0x00 ∨ t.snapshot[Config.portData] = 0x00)

/-- R182: a stored byte is loaded back by LDA abs,X outside the window, and 0x00 is loaded inside it. That no write to
the address comes between says that the byte read there is unchanged. -/
def Obligations.StoreThenLoadRoundTrip : Prop :=
  ∀ (s t u : State) (addr : Word), s.Inv → s.run = .running → s.fetch opcodeTable = .instr (.staAbs addr) →
    step s = .next t → t.unfaulted → u.readMem addr = t.readMem addr →
    ∃ w, exec (.ldaAbsX (addr - u.x.setWidth 16)) u = .next w ∧
      w.a = if region addr = .ioWindow then 0x00 else s.a

/-! ## PPU (50_ppu.md) -/

/-- R201: the address port first, then the data port; a zero byte is no write; the other offsets are ignored. -/
def Obligations.PpuUpdateServesTwoPorts : Prop :=
  ∀ (s : State) (op : Byte) (pc0 : Word) (snap : Snapshot),
    (snap[6] = 0x00 → snap[7] = 0x00 → s.ppuUpdate op pc0 snap = .done s) ∧
    (snap[6] ≠ 0x00 → snap[7] = 0x00 → s.ppuUpdate op pc0 snap = .done (s.addressPort snap[6])) ∧
    (snap[6] = 0x00 → snap[7] ≠ 0x00 → s.ppuUpdate op pc0 snap = s.dataPort op pc0 snap[7]) ∧
    (snap[6] ≠ 0x00 → snap[7] ≠ 0x00 →
      s.ppuUpdate op pc0 snap = (s.addressPort snap[6]).dataPort op pc0 snap[7])

/-- R202: VPTR becomes its old low byte followed by the byte written. -/
def Obligations.AddressPortShiftsVptr : Prop :=
  ∀ (s : State) (v : Byte), s.addressPort v = { s with vptr := BitVec.append (s.vptr.setWidth 8) v }

/-- R203: a data write below 0x4000 stores at VPTR and increments it, at or above 0x4000 it raises VramRangeError; so
bytes H and L on the address port and then V on the data port put V at `(H<<8)|L` when that is below 0x4000. The record
names the instruction whose cycle it is. -/
def Obligations.DataPortStoresAtVptr : Prop :=
  (∀ (s : State) (op : Byte) (pc0 : Word) (v : Byte),
    (s.vptr.toNat < 0x4000 → s.vram.wfSize 0x4000 = true →
      ∃ t, s.dataPort op pc0 v = .done t ∧ t = { s with vram := t.vram, vptr := s.vptr + 1 } ∧
        t.vram.wfSize 0x4000 = true ∧ ∀ k, t.vram.get k = if k = s.vptr.toNat then v else s.vram.get k) ∧
    (0x4000 ≤ s.vptr.toNat → s.dataPort op pc0 v = .raised (.vramRangeError op pc0 s.vptr) s)) ∧
  (∀ (s : State) (op : Byte) (pc0 : Word) (h l v : Byte), s.vram.wfSize 0x4000 = true →
    (h.toNat * 256 + l.toNat < 0x4000 →
      ∃ t, ((s.addressPort h).addressPort l).dataPort op pc0 v = .done t ∧
        t.vram.get (h.toNat * 256 + l.toNat) = v ∧ t.vptr.toNat = h.toNat * 256 + l.toNat + 1) ∧
    (0x4000 ≤ h.toNat * 256 + l.toNat →
      ∃ u, ((s.addressPort h).addressPort l).dataPort op pc0 v =
        .raised (.vramRangeError op pc0 (BitVec.ofNat 16 (h.toNat * 256 + l.toNat))) u)) ∧
  (∀ (s u : State) (op : Byte) (pc0 v : Word),
    s.cycleToRender opcodeTable = .raised (.vramRangeError op pc0 v) u → op = s.readMem s.pc ∧ pc0 = s.pc)

/-- From R202, R60, R61 and R222: a whole cycle of STA to 0x2006 with a nonzero A changes VPTR, PC and what the display
answer changes, and nothing else. -/
def Obligations.StoreToTheAddressPortMovesVptr : Prop :=
  ∀ s : State, s.Inv → s.run = .running → s.fetch opcodeTable = .instr (.staAbs 0x2006) → s.a ≠ 0x00 → s.hostAnswers →
    ∃ t, step s = .next t ∧ t.unfaulted ∧
      t = { s with
        mem := t.mem
        vptr := BitVec.append (s.vptr.setWidth 8) s.a
        pc := s.pc + 3
        run := if s.nextAnswer = .closed then .terminated else .running
        display := s.display.tail } ∧
      ∀ k, t.readMem k = s.readMem k

/-- From R203, R60 and R61: a whole cycle of STA to 0x2007 with a nonzero A and VPTR below 0x4000 stores A in VRAM at
VPTR and nowhere else, increments VPTR and leaves `M`. -/
def Obligations.StoreToTheDataPortWritesVram : Prop :=
  ∀ s : State, s.Inv → s.run = .running → s.fetch opcodeTable = .instr (.staAbs 0x2007) → s.a ≠ 0x00 → s.hostAnswers →
    s.vptr.toNat < 0x4000 →
    ∃ t, step s = .next t ∧ t.unfaulted ∧ t.vptr = s.vptr + 1 ∧
      (∀ k, t.vram.get k = if k = s.vptr.toNat then s.a else s.vram.get k) ∧
      t.pc = s.pc + 3 ∧ ∀ k, t.readMem k = s.readMem k

/-- R253: with VPTR at or above 0x4000 that cycle raises VramRangeError: the instruction has completed with its store to
the window, the window is not cleared, no frame goes out and VPTR is unchanged. -/
def Obligations.DataWriteBeyondVramStopsTheBlock : Prop :=
  ∀ s : State, s.Inv → s.run = .running → s.fetch opcodeTable = .instr (.staAbs 0x2007) → s.a ≠ 0x00 →
    0x4000 ≤ s.vptr.toNat →
    step s = .next { s with
      mem := s.mem.set 0x2007 s.a
      pc := s.pc + 3
      run := .stopped (.vramRangeError 0x8D s.pc s.vptr) } ∧
    s.frameOut opcodeTable = none ∧ s.faultOut opcodeTable = some (.vramRangeError 0x8D s.pc s.vptr)

/-- From R59, R63 and R205: a store of 0x00 to the window, or of any byte to its offsets 0 to 5, leaves VRAM and VPTR,
and the cycle raises no fault. -/
def Obligations.ZeroByteOrOtherOffsetIsNoPortWrite : Prop :=
  ∀ (s : State) (addr : Word), s.Inv → s.run = .running → s.fetch opcodeTable = .instr (.staAbs addr) →
    region addr = .ioWindow → (s.a = 0x00 ∨ addr.toNat < 0x2006) → s.hostAnswers →
    ∃ t, step s = .next t ∧ t.unfaulted ∧ t.vram = s.vram ∧ t.vptr = s.vptr ∧ ∀ k, t.readMem k = s.readMem k

/-- From R205: a VRAM byte that is not 0x00 never becomes 0x00. -/
def Obligations.VramByteNeverReturnsToZero : Prop :=
  ∀ (s t : State) (k : Nat), s.Inv → step s = .next t → s.vram.get k ≠ 0x00 → t.vram.get k ≠ 0x00

/-- From R212, R24 and R142: no cycle changes TILES, SP, or `P.C`, `P.D`, `P.B` and `P.V`. -/
def Obligations.TilesSpAndFourFlagsNeverChange : Prop :=
  ∀ s t : State, step s = .next t →
    t.tiles = s.tiles ∧ t.sp = s.sp ∧ t.p.c = s.p.c ∧ t.p.d = s.p.d ∧ t.p.b = s.p.b ∧ t.p.v = s.p.v

/-- R210: the pixel of a decoded tile, from the bits of the two planes. -/
def Obligations.DecodedTilePixels : Prop :=
  ∀ (record : List Byte) (r c : Fin 8),
    (tilePixel (decodeTile record) r c).toNat =
      ((record.getD r.val 0).getLsbD (7 - c.val)).toNat + 2 * ((record.getD (r.val + 8) 0).getLsbD (7 - c.val)).toNat

/-- R220: every pixel of a frame, and the gray level it is shown with. -/
def Obligations.RenderedPixels : Prop :=
  ∀ (s : State) (y : Fin 240) (x : Fin 256) (e : Byte),
    s.vram.get (0x2000 + ((y.val / 8) * 32 + x.val / 8)) = e →
    s.frame.raster y x =
      tilePixel (s.tiles.get (0 + e.toNat)) ⟨y.val % 8, Nat.mod_lt _ (by decide)⟩ ⟨x.val % 8, Nat.mod_lt _ (by decide)⟩ ∧
    s.frame.gray y x = Config.grayPalette (s.frame.raster y x)

/-- From R221: a frame depends only on the 960 bytes of the name table and on tiles 0 to 255. -/
def Obligations.FrameDependsOnNameTableAndTilesOnly : Prop :=
  ∀ s t : State, (∀ k, 0x2000 ≤ k → k < 0x2000 + 960 → s.vram.get k = t.vram.get k) →
    (∀ n, n < 256 → s.tiles.get n = t.tiles.get n) → s.frame = t.frame

/-- From R296, R221 and R256: a cycle that ends in a next state sends out exactly one frame, of the VRAM and tiles it left,
when it raised no fault, and otherwise no frame and the fault record that RUN then holds. -/
def Obligations.OneFramePerUnfaultedCycle : Prop :=
  ∀ s t : State, step s = .next t →
    (t.unfaulted → s.frameOut opcodeTable = some t.frame ∧ s.faultOut opcodeTable = none) ∧
    (∀ r, t.run = .stopped r → s.frameOut opcodeTable = none ∧ s.faultOut opcodeTable = some r)

/-- From R200: the CPU cannot read VRAM, VPTR or TILES: two runs that differ in them alone agree on every CPU register,
flag, byte of `M` and answer after a step that raises no fault. -/
def Obligations.PpuStateDoesNotReachTheCpu : Prop :=
  ∀ (s t u : State) (vram : Memory) (vptr : Word) (tiles : TileTable), step s = .next t →
    step { s with vram := vram, vptr := vptr, tiles := tiles } = .next u → t.unfaulted → u.unfaulted →
    u = { t with vram := u.vram, vptr := u.vptr, tiles := u.tiles }

/-- From R260: nothing reads `P.I`: with it changed, a step does the same but for `P.I` itself. -/
def Obligations.InterruptDisableHasNoEffect : Prop :=
  ∀ (s t : State) (b : Bool), step s = .next t →
    ∃ u, step { s with p := { s.p with i := b } } = .next u ∧ { u with p := { u.p with i := t.p.i } } = t

/-! ## Faults (60_exceptions.md) -/

/-- From R250 and R257: fault entry sets RUN to `Stopped` with the record and changes nothing else; the codes. -/
def Obligations.FaultEntryChangesRunOnly : Prop :=
  (∀ (s : State) r, s.raise r = { s with run := .stopped r }) ∧
  (∀ op pc0, (FaultRecord.decodeError op pc0).code = 1) ∧
  (∀ op pc0, (FaultRecord.unimplementedInstruction op pc0).code = 2) ∧
  (∀ op pc0 v, (FaultRecord.vramRangeError op pc0 v).code = 3) ∧
  (∀ reason, (FaultRecord.loadError reason).code = 4)

/-- From R102 and R256: a cycle faults in one of two places: at decode, with nothing else changed, or in the PPU update of
an instruction that has completed. -/
def Obligations.FaultsComeFromDecodeOrThePpuUpdate : Prop :=
  ∀ (s t : State) (r : FaultRecord), s.Inv → step s = .next t → t.run = .stopped r →
    (lookup opcodeTable (s.readMem s.pc) = none ∧ r = .decodeError (s.readMem s.pc) s.pc ∧
      t = { s with run := .stopped r }) ∨
    (∃ i u, s.fetch opcodeTable = .instr i ∧ exec i s = .next u ∧ 0x4000 ≤ s.vptr.toNat ∧
      r = .vramRangeError (s.readMem s.pc) s.pc s.vptr ∧ t = { u with run := .stopped r })

/-! ## Reset and boot (70_reset_and_hazards.md) -/

/-- R40: every component at reset, for every draw; `State.reset` is the reset of one draw. -/
def Obligations.ResetValues : Prop :=
  (∀ (draw : ResetDraw) (display : List DisplayAnswer) (s : State), s = State.resetWith draw display →
    s.pc = 0x8000 ∧ (∀ k, s.readMem k = 0x00) ∧ (∀ k, s.vram.get k = 0x00) ∧ s.vptr = 0x0000 ∧
    (∀ n r c, tilePixel (s.tiles.get n) r c = 0) ∧ s.run = .running ∧
    s.a = draw.a ∧ s.x = draw.x ∧ s.y = draw.y ∧ s.sp = draw.sp ∧ s.p = draw.p) ∧
  (∃ draw display, State.reset = State.resetWith draw display)

/-- R68: `load_program`. -/
def Obligations.LoadProgramCopiesTheBlock : Prop :=
  ∀ (m : Memory) (bytes : List Byte), m.wf = true →
    (bytes.length ≤ 0x8000 → ∃ m', loadProgram m bytes = .ok m' ∧
      ∀ k, m'.get k = if 0x8000 ≤ k ∧ k < 0x8000 + bytes.length then bytes.getD (k - 0x8000) 0 else m.get k) ∧
    (0x8000 < bytes.length → loadProgram m bytes = .error .prgTooLarge)

/-- From R283 and R254: the first failing check names the reason, and then RUN alone changes. -/
def Obligations.CartridgeChecksInOrder : Prop :=
  ∀ (buf : List Byte) (p c : Nat), (buf.getD 4 0).toNat = p → (buf.getD 5 0).toNat = c →
    (validate buf =
      if buf.length < 16 then some .truncated
      else if ¬ (buf.getD 0 0 = 0x4E ∧ buf.getD 1 0 = 0x45 ∧ buf.getD 2 0 = 0x53 ∧ buf.getD 3 0 = 0x1A) then
        some .badMagic
      else if buf.length < 16 + 16384 * p + 8192 * c then some .truncated
      else if 0x8000 < 16384 * p then some .prgTooLarge
      else if 8192 < 8192 * c then some .chrTooLarge
      else none) ∧
    (∀ (s : State) reason, validate buf = some reason →
      s.bootCartridge buf = { s with run := .stopped (.loadError reason) })

/-- From R281, R282, R284 and R285: what memory, tiles, PC and RUN are after the boot load of a valid buffer from reset. -/
def Obligations.MemoryImageAfterBoot : Prop :=
  ∀ (draw : ResetDraw) (display : List DisplayAnswer) (buf : List Byte) (s : State) (p c : Nat),
    (buf.getD 4 0).toNat = p → (buf.getD 5 0).toNat = c → validate buf = none →
    powerOn draw display buf = .next s →
    (∀ k : Word, s.readMem k =
      if 0x8000 ≤ k.toNat ∧ k.toNat < 0x8000 + 16384 * p then buf.getD (16 + (k.toNat - 0x8000)) 0 else 0x00) ∧
    (∀ n, s.tiles.get n =
      if n < 512 * c then decodeTile ((buf.drop (16 + 16384 * p + 16 * n)).take 16) else emptyTile) ∧
    s = { State.resetWith draw display with mem := s.mem, tiles := s.tiles }

/-- From R284, R68 and R211: two blocks handed over directly load when they are within the limits, the program at 0x8000
on and the decoded tiles from tile 0 on, with nothing else changed; any other pair is refused. -/
def Obligations.BlockPairOutOfLimitsIsRefused : Prop :=
  ∀ (s : State) (prg chr : List Byte),
    ((0x8000 < prg.length ∨ chr.length % 16 ≠ 0 ∨ 8192 < chr.length) →
      s.bootBlocks prg chr = .refused .illegalBlockPair) ∧
    (prg.length ≤ 0x8000 → chr.length % 16 = 0 → chr.length ≤ 8192 →
      ∃ t, s.bootBlocks prg chr = .next t ∧ t = { s with mem := t.mem, tiles := t.tiles } ∧
        (s.mem.wf = true → ∀ k : Word, t.readMem k =
          if 0x8000 ≤ k.toNat ∧ k.toNat < 0x8000 + prg.length then prg.getD (k.toNat - 0x8000) 0 else s.readMem k) ∧
        (s.tiles.wf = true → ∀ n, t.tiles.get n =
          if n < chr.length / 16 then decodeTile ((chr.drop (16 * n)).take 16) else s.tiles.get n))

/-- From R8, R254, R257, R283 and R284: a boot load sends a LoadError out exactly when it stops the block with it, which a
cartridge buffer does exactly when a check fails and a pair of blocks never does; nothing goes out after it. -/
def Obligations.LoadErrorGoesOutOnce : Prop :=
  (∀ (s : State) buf, s.bootCartridgeFaultOut buf = (validate buf).map FaultRecord.loadError) ∧
  (∀ (s : State) buf r, s.run = .running →
    (s.bootCartridgeFaultOut buf = some r ↔ (s.bootCartridge buf).run = .stopped r)) ∧
  (∀ (s : State) prg chr, s.bootBlocksFaultOut prg chr = none) ∧
  (∀ draw display buf, powerOnFaultOut opcodeTable draw display buf = (validate buf).map FaultRecord.loadError) ∧
  (∀ (s : State) buf r, s.bootCartridgeFaultOut buf = some r →
    (s.bootCartridge buf).frameOut opcodeTable = none ∧ (s.bootCartridge buf).faultOut opcodeTable = none)
end

