-- ==== Sys2Proof/Laws/Memory.lean ====
section
/-! SUPPORT. The laws of arrays in canonical form: what a read gives after a write, that every operation keeps the form,
and that an array in the form is given by what it reads. -/

namespace Sys2Proof.Machine

variable {α : Type} [DecidableEq α] {d v : α} {size lo lo' k k' : Nat} {m : List (Nat × α)}

theorem Sparse.wfFrom_cons {w : α} {j : Nat} :
    Sparse.wfFrom d size lo ((j, w) :: m) = true ↔
      lo ≤ j ∧ j < size ∧ w ≠ d ∧ Sparse.wfFrom d size (j + 1) m = true := by
  simp [Sparse.wfFrom, and_assoc]

theorem Sparse.wfFrom_mono (h : Sparse.wfFrom d size lo m = true) (hle : lo' ≤ lo) :
    Sparse.wfFrom d size lo' m = true := by
  cases m with
  | nil => rfl
  | cons e m =>
    obtain ⟨j, w⟩ := e
    rw [Sparse.wfFrom_cons] at h ⊢
    exact ⟨hle.trans h.1, h.2⟩

/-- Below the least key nothing is listed. -/
theorem Sparse.get_below (h : Sparse.wfFrom d size lo m = true) (hk : k < lo) : Sparse.get d m k = d := by
  induction m generalizing lo with
  | nil => rfl
  | cons e m ih =>
    obtain ⟨j, w⟩ := e
    rw [Sparse.wfFrom_cons] at h
    have hne : k ≠ j := by omega
    simp only [Sparse.get, if_neg hne]
    exact ih h.2.2.2 (by omega)

/-- Beyond the array nothing is listed. -/
theorem Sparse.get_beyond (h : Sparse.wfFrom d size lo m = true) (hk : size ≤ k) : Sparse.get d m k = d := by
  induction m generalizing lo with
  | nil => rfl
  | cons e m ih =>
    obtain ⟨j, w⟩ := e
    rw [Sparse.wfFrom_cons] at h
    have hne : k ≠ j := by omega
    simp only [Sparse.get, if_neg hne]
    exact ih h.2.2.2

/-- A write keeps the canonical form. -/
theorem Sparse.wfFrom_set (h : Sparse.wfFrom d size lo m = true) (hlo : lo ≤ k) (hk : k < size) :
    Sparse.wfFrom d size lo (Sparse.set d m k v) = true := by
  induction m generalizing lo with
  | nil =>
    by_cases hv : v = d
    · simp [Sparse.set, hv, Sparse.wfFrom]
    · simp [Sparse.set, hv, Sparse.wfFrom, hlo, hk]
  | cons e m ih =>
    obtain ⟨j, w⟩ := e
    have h' := Sparse.wfFrom_cons.1 h
    obtain ⟨hlj, hj, hw, hm⟩ := h'
    unfold Sparse.set
    by_cases h1 : k < j
    · by_cases hv : v = d
      · simpa [h1, hv] using h
      · rw [if_pos h1, if_neg hv, Sparse.wfFrom_cons, Sparse.wfFrom_cons]
        exact ⟨hlo, hk, hv, h1, hj, hw, hm⟩
    · rw [if_neg h1]
      by_cases h2 : k = j
      · by_cases hv : v = d
        · rw [if_pos h2, if_pos hv]
          exact Sparse.wfFrom_mono hm (by omega)
        · rw [if_pos h2, if_neg hv, Sparse.wfFrom_cons]
          exact ⟨hlo, hk, hv, h2 ▸ hm⟩
      · rw [if_neg h2, Sparse.wfFrom_cons]
        exact ⟨hlj, hj, hw, ih hm (by omega)⟩

/-- What a read gives after a write. -/
theorem Sparse.get_set (h : Sparse.wfFrom d size lo m = true) :
    Sparse.get d (Sparse.set d m k v) k' = if k' = k then v else Sparse.get d m k' := by
  induction m generalizing lo with
  | nil =>
    by_cases hv : v = d
    · simp [Sparse.set, hv, Sparse.get]
    · simp [Sparse.set, hv, Sparse.get]
  | cons e m ih =>
    obtain ⟨j, w⟩ := e
    have hc := Sparse.wfFrom_cons.1 h
    unfold Sparse.set
    by_cases h1 : k < j
    · rw [if_pos h1]
      by_cases hv : v = d
      · rw [if_pos hv]
        by_cases hk : k' = k
        · rw [if_pos hk, hv]
          exact Sparse.get_below (Sparse.wfFrom_cons.2 ⟨Nat.le_refl j, hc.2⟩) (by omega)
        · rw [if_neg hk]
      · rw [if_neg hv]
        rfl
    · rw [if_neg h1]
      by_cases h2 : k = j
      · rw [if_pos h2]
        by_cases hv : v = d
        · rw [if_pos hv]
          by_cases hk : k' = k
          · rw [if_pos hk, hv]
            exact Sparse.get_below hc.2.2.2 (by omega)
          · have hne : k' ≠ j := by omega
            rw [if_neg hk]
            simp [Sparse.get, hne]
        · subst h2
          by_cases hk : k' = k
          · simp [Sparse.get, hk, hv]
          · simp [Sparse.get, hk, hv]
      · rw [if_neg h2]
        by_cases h3 : k' = j
        · have hne : k' ≠ k := by omega
          subst h3
          simp [Sparse.get, hne]
        · simp only [Sparse.get, if_neg h3]
          exact ih hc.2.2.2

/-- Two arrays in canonical form that read alike are equal data. -/
theorem Sparse.ext_of_get {m' : List (Nat × α)} (h : Sparse.wfFrom d size lo m = true)
    (h' : Sparse.wfFrom d size lo' m' = true) (hg : ∀ k, Sparse.get d m k = Sparse.get d m' k) : m = m' := by
  induction m generalizing m' lo lo' with
  | nil =>
    cases m' with
    | nil => rfl
    | cons e' m' =>
      obtain ⟨j, w⟩ := e'
      have := hg j
      simp only [Sparse.get, if_true] at this
      exact absurd this.symm (Sparse.wfFrom_cons.1 h').2.2.1
  | cons e m ih =>
    obtain ⟨i, u⟩ := e
    have hc := Sparse.wfFrom_cons.1 h
    cases m' with
    | nil =>
      have := hg i
      simp only [Sparse.get, if_true] at this
      exact absurd this hc.2.2.1
    | cons e' m' =>
      obtain ⟨j, w⟩ := e'
      have hc' := Sparse.wfFrom_cons.1 h'
      have hij : i = j := by
        rcases Nat.lt_trichotomy i j with hlt | heq | hgt
        · have := hg i
          rw [Sparse.get_below (lo := j) (Sparse.wfFrom_cons.2 ⟨Nat.le_refl j, hc'.2⟩) hlt] at this
          simp only [Sparse.get, if_true] at this
          exact absurd this hc.2.2.1
        · exact heq
        · have := hg j
          rw [Sparse.get_below (lo := i) (Sparse.wfFrom_cons.2 ⟨Nat.le_refl i, hc.2⟩) hgt] at this
          simp only [Sparse.get, if_true] at this
          exact absurd this.symm hc'.2.2.1
      subst hij
      have huw : u = w := by simpa [Sparse.get] using hg i
      subst huw
      congr 1
      refine ih hc.2.2.2 hc'.2.2.2 fun k => ?_
      by_cases hk : k = i
      · rw [Sparse.get_below hc.2.2.2 (by omega), Sparse.get_below hc'.2.2.2 (by omega)]
      · simpa [Sparse.get, hk] using hg k

/-! ## Byte arrays -/

variable {b : Byte} {mm : Memory}

theorem Memory.wf_eq : mm.wf = mm.wfSize 65536 := rfl

@[simp] theorem Memory.get_nil : Memory.get [] k = 0 := rfl

@[simp] theorem Memory.wfSize_nil : Memory.wfSize size [] = true := rfl

theorem Memory.wfSize_set (h : mm.wfSize size = true) (hk : k < size) : (mm.set k b).wfSize size = true :=
  Sparse.wfFrom_set h (Nat.zero_le k) hk

theorem Memory.get_set (h : mm.wfSize size = true) :
    (mm.set k b).get k' = if k' = k then b else mm.get k' :=
  Sparse.get_set h

theorem Memory.get_beyond (h : mm.wfSize size = true) (hk : size ≤ k) : mm.get k = 0 :=
  Sparse.get_beyond h hk

theorem Memory.wfSize_setBytes {bs : List Byte} (h : mm.wfSize size = true) (hk : k + bs.length ≤ size) :
    (mm.setBytes k bs).wfSize size = true := by
  induction bs generalizing k with
  | nil => exact h
  | cons c bs ih =>
    simp only [List.length_cons] at hk
    exact Memory.wfSize_set (ih (by omega)) (by omega)

/-- What a read gives after a block was written. -/
theorem Memory.get_setBytes {bs : List Byte} (h : mm.wfSize size = true) (hk : k + bs.length ≤ size) :
    (mm.setBytes k bs).get k' =
      if k ≤ k' ∧ k' < k + bs.length then bs.getD (k' - k) 0 else mm.get k' := by
  induction bs generalizing k with
  | nil => simp [Memory.setBytes]
  | cons c bs ih =>
    simp only [List.length_cons] at hk
    simp only [Memory.setBytes, List.length_cons]
    rw [Memory.get_set (Memory.wfSize_setBytes h (by omega)), ih (by omega)]
    by_cases h1 : k' = k
    · subst h1
      simp
    · rw [if_neg h1]
      by_cases h2 : k + 1 ≤ k' ∧ k' < k + 1 + bs.length
      · rw [if_pos h2, if_pos (by omega)]
        obtain ⟨e, rfl⟩ : ∃ e, k' = k + 1 + e := ⟨k' - (k + 1), by omega⟩
        have e1 : k + 1 + e - k = e + 1 := by omega
        have e2 : k + 1 + e - (k + 1) = e := by omega
        rw [e1, e2, List.getD_cons_succ]
      · rw [if_neg h2, if_neg (by omega)]

theorem Memory.wfSize_clear {n : Nat} (h : mm.wfSize size = true) (hk : k + n ≤ size) :
    (mm.clear k n).wfSize size = true := by
  induction n with
  | zero => exact h
  | succ n ih => exact Memory.wfSize_set (ih (by omega)) (by omega)

/-- What a read gives after a range was cleared. -/
theorem Memory.get_clear {n : Nat} (h : mm.wfSize size = true) (hk : k + n ≤ size) :
    (mm.clear k n).get k' = if k ≤ k' ∧ k' < k + n then 0 else mm.get k' := by
  induction n with
  | zero => simp [Memory.clear]
  | succ n ih =>
    simp only [Memory.clear]
    rw [Memory.get_set (Memory.wfSize_clear h (by omega)), ih (by omega)]
    by_cases h1 : k' = k + n
    · rw [if_pos h1, if_pos (by omega)]
    · rw [if_neg h1]
      by_cases h2 : k ≤ k' ∧ k' < k + n
      · rw [if_pos h2, if_pos (by omega)]
      · rw [if_neg h2, if_neg (by omega)]

/-! ## The tile table -/

variable {tt : TileTable} {tile : Tile}

@[simp] theorem TileTable.get_nil : TileTable.get [] k = emptyTile := rfl

@[simp] theorem TileTable.wf_nil : TileTable.wf [] = true := rfl

theorem TileTable.wf_set (h : tt.wf = true) (hk : k < Config.tileCount) : (tt.set k tile).wf = true :=
  Sparse.wfFrom_set h (Nat.zero_le k) hk

theorem TileTable.get_set (h : tt.wf = true) : (tt.set k tile).get k' = if k' = k then tile else tt.get k' :=
  Sparse.get_set h

end Sys2Proof.Machine
end

