-- ==== Sys2Proof/Laws/State.lean ====
section
/-! SUPPORT. One lemma per field per update of State, true by rfl, so that no later proof unfolds a record update. -/

namespace Sys2Proof.Machine

variable (s : State)

section
variable (v : Byte)
@[simp] theorem State.setA_a : (s.setA v).a = v := rfl
@[simp] theorem State.setA_x : (s.setA v).x = s.x := rfl
@[simp] theorem State.setA_y : (s.setA v).y = s.y := rfl
@[simp] theorem State.setA_sp : (s.setA v).sp = s.sp := rfl
@[simp] theorem State.setA_pc : (s.setA v).pc = s.pc := rfl
@[simp] theorem State.setA_p : (s.setA v).p = s.p := rfl
@[simp] theorem State.setA_mem : (s.setA v).mem = s.mem := rfl
@[simp] theorem State.setA_vram : (s.setA v).vram = s.vram := rfl
@[simp] theorem State.setA_vptr : (s.setA v).vptr = s.vptr := rfl
@[simp] theorem State.setA_tiles : (s.setA v).tiles = s.tiles := rfl
@[simp] theorem State.setA_run : (s.setA v).run = s.run := rfl
@[simp] theorem State.setA_display : (s.setA v).display = s.display := rfl
end

section
variable (v : Byte)
@[simp] theorem State.setX_a : (s.setX v).a = s.a := rfl
@[simp] theorem State.setX_x : (s.setX v).x = v := rfl
@[simp] theorem State.setX_y : (s.setX v).y = s.y := rfl
@[simp] theorem State.setX_sp : (s.setX v).sp = s.sp := rfl
@[simp] theorem State.setX_pc : (s.setX v).pc = s.pc := rfl
@[simp] theorem State.setX_p : (s.setX v).p = s.p := rfl
@[simp] theorem State.setX_mem : (s.setX v).mem = s.mem := rfl
@[simp] theorem State.setX_vram : (s.setX v).vram = s.vram := rfl
@[simp] theorem State.setX_vptr : (s.setX v).vptr = s.vptr := rfl
@[simp] theorem State.setX_tiles : (s.setX v).tiles = s.tiles := rfl
@[simp] theorem State.setX_run : (s.setX v).run = s.run := rfl
@[simp] theorem State.setX_display : (s.setX v).display = s.display := rfl
end

section
variable (v : Byte)
@[simp] theorem State.setY_a : (s.setY v).a = s.a := rfl
@[simp] theorem State.setY_x : (s.setY v).x = s.x := rfl
@[simp] theorem State.setY_y : (s.setY v).y = v := rfl
@[simp] theorem State.setY_sp : (s.setY v).sp = s.sp := rfl
@[simp] theorem State.setY_pc : (s.setY v).pc = s.pc := rfl
@[simp] theorem State.setY_p : (s.setY v).p = s.p := rfl
@[simp] theorem State.setY_mem : (s.setY v).mem = s.mem := rfl
@[simp] theorem State.setY_vram : (s.setY v).vram = s.vram := rfl
@[simp] theorem State.setY_vptr : (s.setY v).vptr = s.vptr := rfl
@[simp] theorem State.setY_tiles : (s.setY v).tiles = s.tiles := rfl
@[simp] theorem State.setY_run : (s.setY v).run = s.run := rfl
@[simp] theorem State.setY_display : (s.setY v).display = s.display := rfl
end

section
variable (v : Word)
@[simp] theorem State.setPc_a : (s.setPc v).a = s.a := rfl
@[simp] theorem State.setPc_x : (s.setPc v).x = s.x := rfl
@[simp] theorem State.setPc_y : (s.setPc v).y = s.y := rfl
@[simp] theorem State.setPc_sp : (s.setPc v).sp = s.sp := rfl
@[simp] theorem State.setPc_pc : (s.setPc v).pc = v := rfl
@[simp] theorem State.setPc_p : (s.setPc v).p = s.p := rfl
@[simp] theorem State.setPc_mem : (s.setPc v).mem = s.mem := rfl
@[simp] theorem State.setPc_vram : (s.setPc v).vram = s.vram := rfl
@[simp] theorem State.setPc_vptr : (s.setPc v).vptr = s.vptr := rfl
@[simp] theorem State.setPc_tiles : (s.setPc v).tiles = s.tiles := rfl
@[simp] theorem State.setPc_run : (s.setPc v).run = s.run := rfl
@[simp] theorem State.setPc_display : (s.setPc v).display = s.display := rfl
end

section
variable (v : Flags)
@[simp] theorem State.setP_a : (s.setP v).a = s.a := rfl
@[simp] theorem State.setP_x : (s.setP v).x = s.x := rfl
@[simp] theorem State.setP_y : (s.setP v).y = s.y := rfl
@[simp] theorem State.setP_sp : (s.setP v).sp = s.sp := rfl
@[simp] theorem State.setP_pc : (s.setP v).pc = s.pc := rfl
@[simp] theorem State.setP_p : (s.setP v).p = v := rfl
@[simp] theorem State.setP_mem : (s.setP v).mem = s.mem := rfl
@[simp] theorem State.setP_vram : (s.setP v).vram = s.vram := rfl
@[simp] theorem State.setP_vptr : (s.setP v).vptr = s.vptr := rfl
@[simp] theorem State.setP_tiles : (s.setP v).tiles = s.tiles := rfl
@[simp] theorem State.setP_run : (s.setP v).run = s.run := rfl
@[simp] theorem State.setP_display : (s.setP v).display = s.display := rfl
end

section
variable (v : Memory)
@[simp] theorem State.setMem_a : (s.setMem v).a = s.a := rfl
@[simp] theorem State.setMem_x : (s.setMem v).x = s.x := rfl
@[simp] theorem State.setMem_y : (s.setMem v).y = s.y := rfl
@[simp] theorem State.setMem_sp : (s.setMem v).sp = s.sp := rfl
@[simp] theorem State.setMem_pc : (s.setMem v).pc = s.pc := rfl
@[simp] theorem State.setMem_p : (s.setMem v).p = s.p := rfl
@[simp] theorem State.setMem_mem : (s.setMem v).mem = v := rfl
@[simp] theorem State.setMem_vram : (s.setMem v).vram = s.vram := rfl
@[simp] theorem State.setMem_vptr : (s.setMem v).vptr = s.vptr := rfl
@[simp] theorem State.setMem_tiles : (s.setMem v).tiles = s.tiles := rfl
@[simp] theorem State.setMem_run : (s.setMem v).run = s.run := rfl
@[simp] theorem State.setMem_display : (s.setMem v).display = s.display := rfl
end

section
variable (v : Memory)
@[simp] theorem State.setVram_a : (s.setVram v).a = s.a := rfl
@[simp] theorem State.setVram_x : (s.setVram v).x = s.x := rfl
@[simp] theorem State.setVram_y : (s.setVram v).y = s.y := rfl
@[simp] theorem State.setVram_sp : (s.setVram v).sp = s.sp := rfl
@[simp] theorem State.setVram_pc : (s.setVram v).pc = s.pc := rfl
@[simp] theorem State.setVram_p : (s.setVram v).p = s.p := rfl
@[simp] theorem State.setVram_mem : (s.setVram v).mem = s.mem := rfl
@[simp] theorem State.setVram_vram : (s.setVram v).vram = v := rfl
@[simp] theorem State.setVram_vptr : (s.setVram v).vptr = s.vptr := rfl
@[simp] theorem State.setVram_tiles : (s.setVram v).tiles = s.tiles := rfl
@[simp] theorem State.setVram_run : (s.setVram v).run = s.run := rfl
@[simp] theorem State.setVram_display : (s.setVram v).display = s.display := rfl
end

section
variable (v : Word)
@[simp] theorem State.setVptr_a : (s.setVptr v).a = s.a := rfl
@[simp] theorem State.setVptr_x : (s.setVptr v).x = s.x := rfl
@[simp] theorem State.setVptr_y : (s.setVptr v).y = s.y := rfl
@[simp] theorem State.setVptr_sp : (s.setVptr v).sp = s.sp := rfl
@[simp] theorem State.setVptr_pc : (s.setVptr v).pc = s.pc := rfl
@[simp] theorem State.setVptr_p : (s.setVptr v).p = s.p := rfl
@[simp] theorem State.setVptr_mem : (s.setVptr v).mem = s.mem := rfl
@[simp] theorem State.setVptr_vram : (s.setVptr v).vram = s.vram := rfl
@[simp] theorem State.setVptr_vptr : (s.setVptr v).vptr = v := rfl
@[simp] theorem State.setVptr_tiles : (s.setVptr v).tiles = s.tiles := rfl
@[simp] theorem State.setVptr_run : (s.setVptr v).run = s.run := rfl
@[simp] theorem State.setVptr_display : (s.setVptr v).display = s.display := rfl
end

section
variable (v : TileTable)
@[simp] theorem State.setTiles_a : (s.setTiles v).a = s.a := rfl
@[simp] theorem State.setTiles_x : (s.setTiles v).x = s.x := rfl
@[simp] theorem State.setTiles_y : (s.setTiles v).y = s.y := rfl
@[simp] theorem State.setTiles_sp : (s.setTiles v).sp = s.sp := rfl
@[simp] theorem State.setTiles_pc : (s.setTiles v).pc = s.pc := rfl
@[simp] theorem State.setTiles_p : (s.setTiles v).p = s.p := rfl
@[simp] theorem State.setTiles_mem : (s.setTiles v).mem = s.mem := rfl
@[simp] theorem State.setTiles_vram : (s.setTiles v).vram = s.vram := rfl
@[simp] theorem State.setTiles_vptr : (s.setTiles v).vptr = s.vptr := rfl
@[simp] theorem State.setTiles_tiles : (s.setTiles v).tiles = v := rfl
@[simp] theorem State.setTiles_run : (s.setTiles v).run = s.run := rfl
@[simp] theorem State.setTiles_display : (s.setTiles v).display = s.display := rfl
end

section
variable (v : RunState)
@[simp] theorem State.setRun_a : (s.setRun v).a = s.a := rfl
@[simp] theorem State.setRun_x : (s.setRun v).x = s.x := rfl
@[simp] theorem State.setRun_y : (s.setRun v).y = s.y := rfl
@[simp] theorem State.setRun_sp : (s.setRun v).sp = s.sp := rfl
@[simp] theorem State.setRun_pc : (s.setRun v).pc = s.pc := rfl
@[simp] theorem State.setRun_p : (s.setRun v).p = s.p := rfl
@[simp] theorem State.setRun_mem : (s.setRun v).mem = s.mem := rfl
@[simp] theorem State.setRun_vram : (s.setRun v).vram = s.vram := rfl
@[simp] theorem State.setRun_vptr : (s.setRun v).vptr = s.vptr := rfl
@[simp] theorem State.setRun_tiles : (s.setRun v).tiles = s.tiles := rfl
@[simp] theorem State.setRun_run : (s.setRun v).run = v := rfl
@[simp] theorem State.setRun_display : (s.setRun v).display = s.display := rfl
end

section
variable (v : List DisplayAnswer)
@[simp] theorem State.setDisplay_a : (s.setDisplay v).a = s.a := rfl
@[simp] theorem State.setDisplay_x : (s.setDisplay v).x = s.x := rfl
@[simp] theorem State.setDisplay_y : (s.setDisplay v).y = s.y := rfl
@[simp] theorem State.setDisplay_sp : (s.setDisplay v).sp = s.sp := rfl
@[simp] theorem State.setDisplay_pc : (s.setDisplay v).pc = s.pc := rfl
@[simp] theorem State.setDisplay_p : (s.setDisplay v).p = s.p := rfl
@[simp] theorem State.setDisplay_mem : (s.setDisplay v).mem = s.mem := rfl
@[simp] theorem State.setDisplay_vram : (s.setDisplay v).vram = s.vram := rfl
@[simp] theorem State.setDisplay_vptr : (s.setDisplay v).vptr = s.vptr := rfl
@[simp] theorem State.setDisplay_tiles : (s.setDisplay v).tiles = s.tiles := rfl
@[simp] theorem State.setDisplay_run : (s.setDisplay v).run = s.run := rfl
@[simp] theorem State.setDisplay_display : (s.setDisplay v).display = v := rfl
end

end Sys2Proof.Machine
end

