-- ==== Sys2Proof/Laws/Ops.lean ====
section
/-! SUPPORT. One lemma per shared operation that says everything it can do: its fields, what reads give after it, and
for a part of the cycle the cases it can end in. -/

namespace Sys2Proof.Machine

variable (s : State)

/-! ## Fields of the state after each shared operation -/

section
variable (n : Nat)
@[simp] theorem State.advancePc_a : (s.advancePc n).a = s.a := rfl
@[simp] theorem State.advancePc_x : (s.advancePc n).x = s.x := rfl
@[simp] theorem State.advancePc_y : (s.advancePc n).y = s.y := rfl
@[simp] theorem State.advancePc_sp : (s.advancePc n).sp = s.sp := rfl
@[simp] theorem State.advancePc_pc : (s.advancePc n).pc = s.pc + BitVec.ofNat 16 n := rfl
@[simp] theorem State.advancePc_p : (s.advancePc n).p = s.p := rfl
@[simp] theorem State.advancePc_mem : (s.advancePc n).mem = s.mem := rfl
@[simp] theorem State.advancePc_vram : (s.advancePc n).vram = s.vram := rfl
@[simp] theorem State.advancePc_vptr : (s.advancePc n).vptr = s.vptr := rfl
@[simp] theorem State.advancePc_tiles : (s.advancePc n).tiles = s.tiles := rfl
@[simp] theorem State.advancePc_run : (s.advancePc n).run = s.run := rfl
@[simp] theorem State.advancePc_display : (s.advancePc n).display = s.display := rfl
end

section
variable (d : Byte)
@[simp] theorem State.offsetPcSigned_a : (s.offsetPcSigned d).a = s.a := rfl
@[simp] theorem State.offsetPcSigned_x : (s.offsetPcSigned d).x = s.x := rfl
@[simp] theorem State.offsetPcSigned_y : (s.offsetPcSigned d).y = s.y := rfl
@[simp] theorem State.offsetPcSigned_sp : (s.offsetPcSigned d).sp = s.sp := rfl
@[simp] theorem State.offsetPcSigned_pc : (s.offsetPcSigned d).pc = s.pc + relativeOffset d := rfl
@[simp] theorem State.offsetPcSigned_p : (s.offsetPcSigned d).p = s.p := rfl
@[simp] theorem State.offsetPcSigned_mem : (s.offsetPcSigned d).mem = s.mem := rfl
@[simp] theorem State.offsetPcSigned_vram : (s.offsetPcSigned d).vram = s.vram := rfl
@[simp] theorem State.offsetPcSigned_vptr : (s.offsetPcSigned d).vptr = s.vptr := rfl
@[simp] theorem State.offsetPcSigned_tiles : (s.offsetPcSigned d).tiles = s.tiles := rfl
@[simp] theorem State.offsetPcSigned_run : (s.offsetPcSigned d).run = s.run := rfl
@[simp] theorem State.offsetPcSigned_display : (s.offsetPcSigned d).display = s.display := rfl
end

section
variable (k : Word) (v : Byte)
@[simp] theorem State.writeMem_a : (s.writeMem k v).a = s.a := rfl
@[simp] theorem State.writeMem_x : (s.writeMem k v).x = s.x := rfl
@[simp] theorem State.writeMem_y : (s.writeMem k v).y = s.y := rfl
@[simp] theorem State.writeMem_sp : (s.writeMem k v).sp = s.sp := rfl
@[simp] theorem State.writeMem_pc : (s.writeMem k v).pc = s.pc := rfl
@[simp] theorem State.writeMem_p : (s.writeMem k v).p = s.p := rfl
@[simp] theorem State.writeMem_mem : (s.writeMem k v).mem = s.mem.set k.toNat v := rfl
@[simp] theorem State.writeMem_vram : (s.writeMem k v).vram = s.vram := rfl
@[simp] theorem State.writeMem_vptr : (s.writeMem k v).vptr = s.vptr := rfl
@[simp] theorem State.writeMem_tiles : (s.writeMem k v).tiles = s.tiles := rfl
@[simp] theorem State.writeMem_run : (s.writeMem k v).run = s.run := rfl
@[simp] theorem State.writeMem_display : (s.writeMem k v).display = s.display := rfl
end

section
@[simp] theorem State.clearWindow_a : (s.clearWindow).a = s.a := rfl
@[simp] theorem State.clearWindow_x : (s.clearWindow).x = s.x := rfl
@[simp] theorem State.clearWindow_y : (s.clearWindow).y = s.y := rfl
@[simp] theorem State.clearWindow_sp : (s.clearWindow).sp = s.sp := rfl
@[simp] theorem State.clearWindow_pc : (s.clearWindow).pc = s.pc := rfl
@[simp] theorem State.clearWindow_p : (s.clearWindow).p = s.p := rfl
@[simp] theorem State.clearWindow_mem : (s.clearWindow).mem = s.mem.clear Config.ioBase Config.ioLen := rfl
@[simp] theorem State.clearWindow_vram : (s.clearWindow).vram = s.vram := rfl
@[simp] theorem State.clearWindow_vptr : (s.clearWindow).vptr = s.vptr := rfl
@[simp] theorem State.clearWindow_tiles : (s.clearWindow).tiles = s.tiles := rfl
@[simp] theorem State.clearWindow_run : (s.clearWindow).run = s.run := rfl
@[simp] theorem State.clearWindow_display : (s.clearWindow).display = s.display := rfl
end

section
variable (r : FaultRecord)
@[simp] theorem State.raise_a : (s.raise r).a = s.a := rfl
@[simp] theorem State.raise_x : (s.raise r).x = s.x := rfl
@[simp] theorem State.raise_y : (s.raise r).y = s.y := rfl
@[simp] theorem State.raise_sp : (s.raise r).sp = s.sp := rfl
@[simp] theorem State.raise_pc : (s.raise r).pc = s.pc := rfl
@[simp] theorem State.raise_p : (s.raise r).p = s.p := rfl
@[simp] theorem State.raise_mem : (s.raise r).mem = s.mem := rfl
@[simp] theorem State.raise_vram : (s.raise r).vram = s.vram := rfl
@[simp] theorem State.raise_vptr : (s.raise r).vptr = s.vptr := rfl
@[simp] theorem State.raise_tiles : (s.raise r).tiles = s.tiles := rfl
@[simp] theorem State.raise_run : (s.raise r).run = .stopped r := rfl
@[simp] theorem State.raise_display : (s.raise r).display = s.display := rfl
end

section
variable (v : Byte)
@[simp] theorem State.nz_a : (s.nz v).a = s.a := rfl
@[simp] theorem State.nz_x : (s.nz v).x = s.x := rfl
@[simp] theorem State.nz_y : (s.nz v).y = s.y := rfl
@[simp] theorem State.nz_sp : (s.nz v).sp = s.sp := rfl
@[simp] theorem State.nz_pc : (s.nz v).pc = s.pc := rfl
@[simp] theorem State.nz_p : (s.nz v).p = { s.p with z := decide (v = 0), n := v.getLsbD 7 } := rfl
@[simp] theorem State.nz_mem : (s.nz v).mem = s.mem := rfl
@[simp] theorem State.nz_vram : (s.nz v).vram = s.vram := rfl
@[simp] theorem State.nz_vptr : (s.nz v).vptr = s.vptr := rfl
@[simp] theorem State.nz_tiles : (s.nz v).tiles = s.tiles := rfl
@[simp] theorem State.nz_run : (s.nz v).run = s.run := rfl
@[simp] theorem State.nz_display : (s.nz v).display = s.display := rfl
end

section
@[simp] theorem State.setInterruptDisable_a : (s.setInterruptDisable).a = s.a := rfl
@[simp] theorem State.setInterruptDisable_x : (s.setInterruptDisable).x = s.x := rfl
@[simp] theorem State.setInterruptDisable_y : (s.setInterruptDisable).y = s.y := rfl
@[simp] theorem State.setInterruptDisable_sp : (s.setInterruptDisable).sp = s.sp := rfl
@[simp] theorem State.setInterruptDisable_pc : (s.setInterruptDisable).pc = s.pc := rfl
@[simp] theorem State.setInterruptDisable_p : (s.setInterruptDisable).p = { s.p with i := true } := rfl
@[simp] theorem State.setInterruptDisable_mem : (s.setInterruptDisable).mem = s.mem := rfl
@[simp] theorem State.setInterruptDisable_vram : (s.setInterruptDisable).vram = s.vram := rfl
@[simp] theorem State.setInterruptDisable_vptr : (s.setInterruptDisable).vptr = s.vptr := rfl
@[simp] theorem State.setInterruptDisable_tiles : (s.setInterruptDisable).tiles = s.tiles := rfl
@[simp] theorem State.setInterruptDisable_run : (s.setInterruptDisable).run = s.run := rfl
@[simp] theorem State.setInterruptDisable_display : (s.setInterruptDisable).display = s.display := rfl
end

section
variable (v : Byte)
@[simp] theorem State.addressPort_a : (s.addressPort v).a = s.a := rfl
@[simp] theorem State.addressPort_x : (s.addressPort v).x = s.x := rfl
@[simp] theorem State.addressPort_y : (s.addressPort v).y = s.y := rfl
@[simp] theorem State.addressPort_sp : (s.addressPort v).sp = s.sp := rfl
@[simp] theorem State.addressPort_pc : (s.addressPort v).pc = s.pc := rfl
@[simp] theorem State.addressPort_p : (s.addressPort v).p = s.p := rfl
@[simp] theorem State.addressPort_mem : (s.addressPort v).mem = s.mem := rfl
@[simp] theorem State.addressPort_vram : (s.addressPort v).vram = s.vram := rfl
@[simp] theorem State.addressPort_vptr : (s.addressPort v).vptr = (s.vptr <<< 8) ||| v.setWidth 16 := rfl
@[simp] theorem State.addressPort_tiles : (s.addressPort v).tiles = s.tiles := rfl
@[simp] theorem State.addressPort_run : (s.addressPort v).run = s.run := rfl
@[simp] theorem State.addressPort_display : (s.addressPort v).display = s.display := rfl
end

/-! ## CPU memory -/

variable {s}

theorem State.readMem_def (k : Word) : s.readMem k = s.mem.get k.toNat := rfl

/-- A read depends on `M` alone. -/
theorem State.readMem_congr {t : State} (h : s.mem = t.mem) (k : Word) : s.readMem k = t.readMem k := by
  simp [State.readMem_def, h]

@[simp] theorem State.setA_readMem (v : Byte) (k : Word) : (s.setA v).readMem k = s.readMem k := rfl
@[simp] theorem State.setX_readMem (v : Byte) (k : Word) : (s.setX v).readMem k = s.readMem k := rfl
@[simp] theorem State.setY_readMem (v : Byte) (k : Word) : (s.setY v).readMem k = s.readMem k := rfl
@[simp] theorem State.setPc_readMem (v : Word) (k : Word) : (s.setPc v).readMem k = s.readMem k := rfl
@[simp] theorem State.setP_readMem (v : Flags) (k : Word) : (s.setP v).readMem k = s.readMem k := rfl
@[simp] theorem State.setVram_readMem (v : Memory) (k : Word) : (s.setVram v).readMem k = s.readMem k := rfl
@[simp] theorem State.setVptr_readMem (v : Word) (k : Word) : (s.setVptr v).readMem k = s.readMem k := rfl
@[simp] theorem State.setTiles_readMem (v : TileTable) (k : Word) : (s.setTiles v).readMem k = s.readMem k := rfl
@[simp] theorem State.setRun_readMem (v : RunState) (k : Word) : (s.setRun v).readMem k = s.readMem k := rfl
@[simp] theorem State.setDisplay_readMem (v : List DisplayAnswer) (k : Word) : (s.setDisplay v).readMem k = s.readMem k := rfl
@[simp] theorem State.advancePc_readMem (n : Nat) (k : Word) : (s.advancePc n).readMem k = s.readMem k := rfl
@[simp] theorem State.offsetPcSigned_readMem (v : Byte) (k : Word) : (s.offsetPcSigned v).readMem k = s.readMem k := rfl
@[simp] theorem State.raise_readMem (r : FaultRecord) (k : Word) : (s.raise r).readMem k = s.readMem k := rfl
@[simp] theorem State.nz_readMem (v : Byte) (k : Word) : (s.nz v).readMem k = s.readMem k := rfl
@[simp] theorem State.setInterruptDisable_readMem (k : Word) : (s.setInterruptDisable).readMem k = s.readMem k := rfl
@[simp] theorem State.addressPort_readMem (v : Byte) (k : Word) : (s.addressPort v).readMem k = s.readMem k := rfl

/-- What a read gives after a store. -/
theorem State.readMem_writeMem (h : s.mem.wf = true) (k k' : Word) (v : Byte) :
    (s.writeMem k v).readMem k' = if k' = k then v else s.readMem k' := by
  simp only [State.readMem_def, State.writeMem_mem]
  rw [Memory.get_set h]
  simp [BitVec.toNat_inj]

/-- A store keeps the canonical form. -/
theorem State.wf_writeMem (h : s.mem.wf = true) (k : Word) (v : Byte) : (s.writeMem k v).mem.wf = true :=
  Memory.wfSize_set h k.isLt

/-! ## The I/O window -/

theorem windowAddr_toNat (i : Fin Config.ioLen) : (windowAddr i).toNat = 0x2000 + i.val := by
  have hi : i.val < 8 := i.isLt
  show (0x2000 + i.val) % 65536 = 0x2000 + i.val
  omega

theorem windowAddr_inj {i j : Fin Config.ioLen} : windowAddr i = windowAddr j ↔ i = j := by
  constructor
  · intro h
    have := congrArg BitVec.toNat h
    rw [windowAddr_toNat, windowAddr_toNat] at this
    exact Fin.ext (by omega)
  · rintro rfl
    rfl

/-- The address decoder on numerals (R51). -/
theorem region_eq (k : Word) :
    region k = if k.toNat < 0x2000 then .lowRam else if k.toNat < 0x2008 then .ioWindow
      else if k.toNat < 0x8000 then .midRam else .programRegion := rfl

theorem region_ioWindow_toNat (k : Word) : region k = .ioWindow ↔ 0x2000 ≤ k.toNat ∧ k.toNat < 0x2008 := by
  rw [region_eq]
  split_ifs <;> simp <;> omega

/-- The addresses decoded as the I/O window are those of its eight bytes. -/
theorem region_ioWindow_iff (k : Word) : region k = .ioWindow ↔ ∃ i, k = windowAddr i := by
  rw [region_ioWindow_toNat]
  constructor
  · rintro ⟨h1, h2⟩
    refine ⟨⟨k.toNat - 0x2000, by show _ < 8; omega⟩, BitVec.eq_of_toNat_eq ?_⟩
    rw [windowAddr_toNat]
    show k.toNat = 0x2000 + (k.toNat - 0x2000)
    omega
  · rintro ⟨i, rfl⟩
    have hi : i.val < 8 := i.isLt
    rw [windowAddr_toNat]
    omega

@[simp] theorem State.snapshot_getElem (i : Nat) (h : i < Config.ioLen) :
    s.snapshot[i] = s.readMem (windowAddr ⟨i, h⟩) := by
  simp [State.snapshot]

/-- What a read gives after the window was cleared. -/
theorem State.readMem_clearWindow (h : s.mem.wf = true) (k : Word) :
    s.clearWindow.readMem k = if region k = .ioWindow then 0 else s.readMem k := by
  have hw : (0x2000 ≤ k.toNat ∧ k.toNat < 0x2000 + 8) ↔ region k = .ioWindow := (region_ioWindow_toNat k).symm
  simp only [State.readMem_def, State.clearWindow_mem]
  rw [Memory.get_clear h (by decide)]
  exact if_congr hw rfl rfl

/-- The clear keeps the canonical form. -/
theorem State.wf_clearWindow (h : s.mem.wf = true) : s.clearWindow.mem.wf = true :=
  Memory.wfSize_clear h (by decide)

/-- After the clear every window byte is 0x00. -/
theorem State.windowClear_clearWindow (h : s.mem.wf = true) : s.clearWindow.windowClear := fun i => by
  rw [State.readMem_clearWindow h, if_pos ((region_ioWindow_iff _).2 ⟨i, rfl⟩)]

/-! ## The PPU update -/

variable {op v : Byte} {pc0 : Word} {snap : Snapshot} {t u : State} {r : FaultRecord}

/-- The data port completes exactly below `VRAM_SIZE`. -/
theorem State.dataPort_done :
    s.dataPort op pc0 v = .done t ↔
      s.vptr.toNat < 0x4000 ∧ t = (s.setVram (s.vram.set s.vptr.toNat v)).setVptr (s.vptr + 1) := by
  unfold State.dataPort
  by_cases h : Config.vramSize ≤ s.vptr.toNat
  · rw [if_pos h]
    have : 0x4000 ≤ s.vptr.toNat := h
    simp
    omega
  · rw [if_neg h]
    have : s.vptr.toNat < 0x4000 := by simpa [Config.vramSize] using h
    simp [this, eq_comm]

/-- The data port raises exactly at or above `VRAM_SIZE`, and leaves the state as it was. -/
theorem State.dataPort_raised :
    s.dataPort op pc0 v = .raised r t ↔
      0x4000 ≤ s.vptr.toNat ∧ r = .vramRangeError op pc0 s.vptr ∧ t = s := by
  unfold State.dataPort
  by_cases h : Config.vramSize ≤ s.vptr.toNat
  · rw [if_pos h]
    have : 0x4000 ≤ s.vptr.toNat := h
    simp [this, eq_comm]
  · rw [if_neg h]
    have : ¬ 0x4000 ≤ s.vptr.toNat := h
    simp [this]

/-- The data port ends in one of two ways. -/
theorem State.dataPort_cases (s : State) (op : Byte) (pc0 : Word) (v : Byte) :
    (s.vptr.toNat < 0x4000 ∧
      s.dataPort op pc0 v = .done ((s.setVram (s.vram.set s.vptr.toNat v)).setVptr (s.vptr + 1))) ∨
    (0x4000 ≤ s.vptr.toNat ∧ s.dataPort op pc0 v = .raised (.vramRangeError op pc0 s.vptr) s) := by
  by_cases h : s.vptr.toNat < 0x4000
  · exact .inl ⟨h, State.dataPort_done.2 ⟨h, rfl⟩⟩
  · have h' : 0x4000 ≤ s.vptr.toNat := by omega
    exact .inr ⟨h', State.dataPort_raised.2 ⟨h', rfl, rfl⟩⟩

/-- The state after the address-port half of an update. -/
theorem State.ppuUpdate_eq (s : State) (op : Byte) (pc0 : Word) (snap : Snapshot) :
    s.ppuUpdate op pc0 snap =
      if snap[Config.portData] = 0 then .done (if snap[Config.portAddr] = 0 then s else s.addressPort snap[Config.portAddr])
      else (if snap[Config.portAddr] = 0 then s else s.addressPort snap[Config.portAddr]).dataPort op pc0
        snap[Config.portData] := rfl

/-- Everything a PPU update can do: it touches VRAM and VPTR alone, and it raises nothing but VramRangeError. -/
theorem State.ppuUpdate_cases (s : State) (op : Byte) (pc0 : Word) (snap : Snapshot) :
    (∃ m w, s.ppuUpdate op pc0 snap = .done ((s.setVram m).setVptr w)) ∨
    (∃ w, 0x4000 ≤ w.toNat ∧ s.ppuUpdate op pc0 snap = .raised (.vramRangeError op pc0 w) (s.setVptr w)) := by
  have base : ∃ w, (if snap[Config.portAddr] = 0 then s else s.addressPort snap[Config.portAddr]) = s.setVptr w := by
    by_cases h : snap[Config.portAddr] = 0
    · exact ⟨s.vptr, by rw [if_pos h]; rfl⟩
    · exact ⟨_, by rw [if_neg h]; rfl⟩
  obtain ⟨w, hw⟩ := base
  rw [State.ppuUpdate_eq, hw]
  by_cases hd : snap[Config.portData] = 0
  · rw [if_pos hd]
    exact .inl ⟨s.vram, w, rfl⟩
  · rw [if_neg hd]
    rcases (s.setVptr w).dataPort_cases op pc0 snap[Config.portData] with ⟨_, h⟩ | ⟨hge, h⟩
    · exact .inl ⟨_, _, h⟩
    · exact .inr ⟨w, hge, h⟩

/-- A PPU update keeps the canonical form of VRAM. -/
theorem State.wf_ppuUpdate_done (hw : s.vram.wfSize Config.vramSize = true) (h : s.ppuUpdate op pc0 snap = .done t) :
    t.vram.wfSize Config.vramSize = true := by
  rw [State.ppuUpdate_eq] at h
  have base : (if snap[Config.portAddr] = 0 then s else s.addressPort snap[Config.portAddr]).vram = s.vram := by
    split <;> rfl
  by_cases hd : snap[Config.portData] = 0
  · rw [if_pos hd] at h
    cases h
    rwa [base]
  · rw [if_neg hd] at h
    obtain ⟨hlt, rfl⟩ := State.dataPort_done.1 h
    exact Memory.wfSize_set (base ▸ hw) hlt

/-! ## The cycle -/

theorem State.updatePpu_done :
    s.updatePpu op pc0 = .done u ↔ ∃ t, s.ppuUpdate op pc0 s.snapshot = .done t ∧ u = t.clearWindow := by
  unfold State.updatePpu
  cases h : s.ppuUpdate op pc0 s.snapshot <;> simp [eq_comm]

theorem State.updatePpu_raised :
    s.updatePpu op pc0 = .raised r u ↔ s.ppuUpdate op pc0 s.snapshot = .raised r u := by
  unfold State.updatePpu
  cases h : s.ppuUpdate op pc0 s.snapshot <;> simp

/-- The display hand-off, when it lets the run go on. -/
theorem State.displayHandOff_next :
    s.displayHandOff = .next t ↔
      (s.nextAnswer = .ready ∧ t = s.setDisplay s.display.tail) ∨
      (s.nextAnswer = .closed ∧ t = (s.setDisplay s.display.tail).setRun .terminated) := by
  unfold State.displayHandOff
  cases h : s.nextAnswer <;> simp [eq_comm]

/-- Every instruction's rule completes. -/
theorem exec_completes (i : Instr) (s : State) : ∃ t, exec i s = .next t := by
  cases i <;> exact ⟨_, rfl⟩

/-- The cycle of a running state, by what the fetch gives. -/
theorem State.cycleToRender_running (rom : Rom) (h : s.run = .running) :
    s.cycleToRender rom =
      match s.fetch rom with
      | .absent => .raised (.decodeError (s.readMem s.pc) s.pc) s
      | .noHandler => .raised (.unimplementedInstruction (s.readMem s.pc) s.pc) s
      | .instr i => afterRule (s.readMem s.pc) s.pc (exec i s) := by
  cases hf : s.fetch rom <;> unfold State.cycleToRender <;> rw [h, hf]

/-- Inversion of the cycle: a next state comes from a running state, by a raised fault or by a display answer. -/
theorem State.cycle_next {rom : Rom} (h : s.cycle rom = .next t) :
    s.run = .running ∧
      ((∃ r u, s.cycleToRender rom = .raised r u ∧ t = u.raise r) ∨
       (∃ u, s.cycleToRender rom = .done u ∧ u.displayHandOff = .next t)) := by
  have hrun : s.run = .running := by
    cases hr : s.run with
    | running => rfl
    | stopped r => simp [State.cycle, State.cycleToRender, hr, Phase.finish] at h
    | terminated => simp [State.cycle, State.cycleToRender, hr, Phase.finish] at h
  refine ⟨hrun, ?_⟩
  unfold State.cycle at h
  cases hp : s.cycleToRender rom with
  | done u => exact .inr ⟨u, rfl, by simpa [hp, Phase.finish] using h⟩
  | raised r u => exact .inl ⟨r, u, rfl, by simpa [hp, Phase.finish, eq_comm] using h⟩
  | stuck f => simp [hp, Phase.finish] at h
  | refused r => simp [hp, Phase.finish] at h

/-- Inversion of a cycle up to the render that completes. -/
theorem State.cycleToRender_done {rom : Rom} (h : s.cycleToRender rom = .done u) :
    s.run = .running ∧ ∃ i t v, s.fetch rom = .instr i ∧ exec i s = .next t ∧
      t.ppuUpdate (s.readMem s.pc) s.pc t.snapshot = .done v ∧ u = v.clearWindow := by
  unfold State.cycleToRender at h
  cases hr : s.run with
  | stopped r => simp [hr] at h
  | terminated => simp [hr] at h
  | running =>
    simp only [hr] at h
    cases hf : s.fetch rom with
    | absent => simp [hf] at h
    | noHandler => simp [hf] at h
    | instr i =>
      obtain ⟨t, ht⟩ := exec_completes i s
      simp only [hf, ht, afterRule] at h
      obtain ⟨v, hv, hu⟩ := State.updatePpu_done.1 h
      exact ⟨rfl, i, t, v, rfl, ht, hv, hu⟩

/-- Inversion of a cycle that raises: at decode with the state untouched, or in the PPU update. -/
theorem State.cycleToRender_raised {rom : Rom} (h : s.cycleToRender rom = .raised r u) :
    s.run = .running ∧
      ((s.fetch rom = .absent ∧ r = .decodeError (s.readMem s.pc) s.pc ∧ u = s) ∨
       (s.fetch rom = .noHandler ∧ r = .unimplementedInstruction (s.readMem s.pc) s.pc ∧ u = s) ∨
       (∃ i t, s.fetch rom = .instr i ∧ exec i s = .next t ∧
         t.ppuUpdate (s.readMem s.pc) s.pc t.snapshot = .raised r u)) := by
  unfold State.cycleToRender at h
  cases hr : s.run with
  | stopped r => simp [hr] at h
  | terminated => simp [hr] at h
  | running =>
    simp only [hr] at h
    refine ⟨rfl, ?_⟩
    cases hf : s.fetch rom with
    | absent =>
      simp only [hf, Phase.raised.injEq] at h
      exact .inl ⟨rfl, h.1.symm, h.2.symm⟩
    | noHandler =>
      simp only [hf, Phase.raised.injEq] at h
      exact .inr (.inl ⟨rfl, h.1.symm, h.2.symm⟩)
    | instr i =>
      obtain ⟨t, ht⟩ := exec_completes i s
      simp only [hf, ht, afterRule] at h
      exact .inr (.inr ⟨i, t, rfl, ht, State.updatePpu_raised.1 h⟩)

/-! ## Tiles and frames -/

/-- A decoded pixel (R210). -/
theorem tilePixel_decodeTile (record : List Byte) (r c : Fin 8) :
    tilePixel (decodeTile record) r c =
      planeBit (record.getD r.val 0) (7 - c.val) ||| (planeBit (record.getD (r.val + 8) 0) (7 - c.val) <<< 1) := by
  simp only [tilePixel, decodeTile, Vector.get_eq_getElem, Vector.getElem_ofFn]
  rfl

/-- The empty tile's pixels are 0 (10_state.md R36). -/
theorem tilePixel_emptyTile (r c : Fin 8) : tilePixel emptyTile r c = 0 := by
  revert r c
  decide

/-- A rendered pixel (R220). -/
theorem render_apply (vram : Memory) (tiles : TileTable) (y : Fin Config.rasterH) (x : Fin Config.rasterW) :
    render vram tiles y x = pixelAt vram tiles y.val x.val := rfl

/-- A pixel depends on its name-table entry and on the tile that selects (R220). -/
theorem pixelAt_eq (vram : Memory) (tiles : TileTable) (y x : Nat) :
    pixelAt vram tiles y x =
      tilePixel (tiles.get (vram.get (0x2000 + (y / 8 * 32 + x / 8))).toNat) (Fin.ofNat 8 (y % 8)) (Fin.ofNat 8 (x % 8)) := by
  simp only [pixelAt, Config.ntBase, Config.bgTileBase, Nat.zero_add]

end Sys2Proof.Machine
end

