-- ==== Sys2Proof/Laws/Boot.lean ====
section
/-! SUPPORT. What the boot load can do: one lemma per operation of Sys2Proof/Machine/Boot.lean, and the tiles after an
ingestion. -/

namespace Sys2Proof.Machine

variable {s t : State} {m : TileTable} {prg chr buf : List Byte} {reason : LoadReason}

/-! ## Tiles (50_ppu.md R211) -/

/-- Ingestion keeps the canonical form. -/
theorem ingestFirst_wf (h : m.wf = true) (chr : List Byte) : ∀ n, n ≤ Config.tileCount → (ingestFirst m chr n).wf = true
  | 0, _ => h
  | n + 1, hn => TileTable.wf_set (ingestFirst_wf h chr n (by omega)) (by omega)

/-- The tiles after an ingestion: the first `n` are decoded, the others are as before. -/
theorem ingestFirst_get (h : m.wf = true) (chr : List Byte) (k : Nat) : ∀ n, n ≤ Config.tileCount →
    (ingestFirst m chr n).get k = if k < n then decodeTile (tileRecord chr k) else m.get k
  | 0, _ => by simp [ingestFirst]
  | n + 1, hn => by
    rw [ingestFirst, TileTable.get_set (ingestFirst_wf h chr n (by omega)), ingestFirst_get h chr k n (by omega)]
    rcases Nat.lt_trichotomy k n with hk | rfl | hk
    · rw [if_neg (by omega), if_pos hk, if_pos (by omega)]
    · rw [if_pos rfl, if_pos (by omega)]
    · rw [if_neg (by omega), if_neg (by omega), if_neg (by omega)]

/-! ## Loading (70_reset_and_hazards.md R283, R284) -/

@[simp] theorem State.endBoot_ok : s.endBoot (.ok t) = t := rfl
@[simp] theorem State.endBoot_error : s.endBoot (.error reason) = s.raise (.loadError reason) := rfl
@[simp] theorem bootFault_ok : bootFault (.ok t) = none := rfl
@[simp] theorem bootFault_error : bootFault (.error reason) = some (.loadError reason) := rfl

/-- The limits of a pair of blocks, as inequalities. -/
theorem blockPairWf_iff : blockPairWf prg chr = true ↔ prg.length ≤ 0x8000 ∧ chr.length % 16 = 0 ∧ chr.length ≤ 8192 := by
  simp only [blockPairWf, Bool.and_eq_true, decide_eq_true_eq, and_assoc]
  exact Iff.rfl

/-- A program within its limit loads, and then the tiles are decoded (R284). -/
theorem State.loadBlocks_of_le (h : prg.length ≤ 0x8000) :
    s.loadBlocks prg chr = .ok { s with
      mem := s.mem.setBytes 0x8000 prg
      tiles := ingestFirst s.tiles chr (chr.length / 16) } := by
  have hl : loadProgram s.mem prg = .ok (s.mem.setBytes 0x8000 prg) := if_neg (Nat.not_lt.2 h)
  rw [State.loadBlocks, hl]
  rfl

/-- A buffer that passes the checks is long enough for both blocks, and both are within their limits (R283). -/
theorem validate_none (h : validate buf = none) :
    16 + prgLen buf + chrLen buf ≤ buf.length ∧ prgLen buf ≤ 0x8000 ∧ chrLen buf ≤ 8192 := by
  unfold validate at h
  split_ifs at h with _ _ hlen hprg hchr
  exact ⟨Nat.not_lt.1 hlen, Nat.not_lt.1 hprg, Nat.not_lt.1 hchr⟩

/-- The blocks cut out of a buffer that passes the checks have the header's lengths (R282). -/
theorem length_blocks (h : validate buf = none) :
    (prgBlock buf).length = prgLen buf ∧ (chrBlock buf).length = chrLen buf := by
  have := validate_none h
  simp only [prgBlock, chrBlock, headerLength, List.length_take, List.length_drop]
  omega

/-- A buffer that fails a check loads nothing (R283). -/
theorem State.loadCartridge_error (h : validate buf = some reason) : s.loadCartridge buf = .error reason := by
  rw [State.loadCartridge, h]

/-- A buffer that passes the checks loads: `load_program` cannot fail after them (R284). -/
theorem State.loadCartridge_ok (h : validate buf = none) :
    s.loadCartridge buf = .ok { s with
      mem := s.mem.setBytes 0x8000 (prgBlock buf)
      tiles := ingestFirst s.tiles (chrBlock buf) (chrLen buf / 16) } := by
  have hl := length_blocks h
  have := validate_none h
  rw [State.loadCartridge, h]
  simp only []
  rw [State.loadBlocks_of_le (by omega), hl.2]

end Sys2Proof.Machine
end

