-- ==== Sys2Proof/Laws/Decode.lean ====
section
/-! SUPPORT. The laws of lookup, dispatch and operand assembly. -/

namespace Sys2Proof

/-- What a lookup gives is a row of the ROM. -/
theorem lookup_some {rom : Rom} {op : Byte} {mn : Mnemonic} {mode : Mode} (h : lookup rom op = some (mn, mode)) :
    ⟨op, mn, mode⟩ ∈ rom := by
  induction rom with
  | nil => simp [lookup] at h
  | cons row rows ih =>
    unfold lookup at h
    split at h
    · next hb =>
      obtain ⟨b, m, md⟩ := row
      simp only [Option.some.injEq, Prod.mk.injEq] at h
      simp only at hb
      simp [hb, h.1, h.2]
    · exact List.mem_cons_of_mem _ (ih h)

/-- An instruction dispatched comes from a row and its handler. -/
theorem dispatch_instr {rom : Rom} {b0 b1 b2 : Byte} {i : Instr} :
    dispatch rom b0 b1 b2 = .instr i ↔
      ∃ mn mode, lookup rom b0 = some (mn, mode) ∧ handler mn mode b1 b2 = some i := by
  unfold dispatch
  cases hl : lookup rom b0 with
  | none => simp
  | some p =>
    obtain ⟨mn, mode⟩ := p
    cases hh : handler mn mode b1 b2 <;> simp [hh]

/-- The 16-bit operand of two bytes, bit by bit: B1 below, B2 above (30_encoding.md R86). -/
theorem absOperand_getLsbD (b1 b2 : Byte) (k : Nat) :
    (absOperand b1 b2).getLsbD k = if k < 8 then b1.getLsbD k else b2.getLsbD (k - 8) := by
  by_cases h : k < 8
  · simp [absOperand, h]
    omega
  · by_cases h16 : k < 16
    · have hk : 8 ≤ k := by omega
      simp [absOperand, h, h16, BitVec.getLsbD_of_ge b1 k hk]
    · have hk : 8 ≤ k - 8 := by omega
      simp [absOperand, h, h16, BitVec.getLsbD_of_ge _ _ hk]

@[simp] theorem absOperand_lowByte_highByte (w : Word) : absOperand (lowByte w) (highByte w) = w := by
  apply BitVec.eq_of_getLsbD_eq
  intro k hk
  rw [absOperand_getLsbD]
  by_cases h : k < 8
  · simp [lowByte, h]
  · have h1 : k - 8 < 8 := by omega
    have h2 : 8 + (k - 8) = k := by omega
    simp [highByte, h, h1, h2]

@[simp] theorem lowByte_absOperand (b1 b2 : Byte) : lowByte (absOperand b1 b2) = b1 := by
  apply BitVec.eq_of_getLsbD_eq
  intro k hk
  simp [lowByte, absOperand_getLsbD, hk]

@[simp] theorem highByte_absOperand (b1 b2 : Byte) : highByte (absOperand b1 b2) = b2 := by
  apply BitVec.eq_of_getLsbD_eq
  intro k hk
  simp [highByte, absOperand_getLsbD, hk]

end Sys2Proof
end

