-- ==== Sys2Proof/Laws/PerInstr.lean ====
section
/-! SUPPORT. The shape of an instruction's encoding, one lemma per constructor: its first byte is a row of the dispatch ROM
with the instruction's mode, and it is as long as that mode says (30_encoding.md R84, R85, R88). -/

namespace Sys2Proof.Laws.EncodeShape

/-- The encoding begins with the opcode byte of a row of the instruction's mode and has `len(mode)` bytes. -/
def Statement (i : Instr) : Prop :=
  i.wf = true ∧ (encode i).length = i.mode.length ∧
    ∃ op mn, (encode i).head? = some op ∧ lookup opcodeTable op = some (mn, i.mode)

theorem jmpAbs (target : Word) : Statement (.jmpAbs target) := ⟨rfl, rfl, _, _, rfl, rfl⟩
theorem sei : Statement .sei := ⟨rfl, rfl, _, _, rfl, rfl⟩
theorem dey : Statement .dey := ⟨rfl, rfl, _, _, rfl, rfl⟩
theorem tsx : Statement .tsx := ⟨rfl, rfl, _, _, rfl, rfl⟩
theorem ldyImm (imm : Byte) : Statement (.ldyImm imm) := ⟨rfl, rfl, _, _, rfl, rfl⟩
theorem ldxImm (imm : Byte) : Statement (.ldxImm imm) := ⟨rfl, rfl, _, _, rfl, rfl⟩
theorem ldaImm (imm : Byte) : Statement (.ldaImm imm) := ⟨rfl, rfl, _, _, rfl, rfl⟩
theorem ldaAbsX (base : Word) : Statement (.ldaAbsX base) := ⟨rfl, rfl, _, _, rfl, rfl⟩
theorem staAbs (addr : Word) : Statement (.staAbs addr) := ⟨rfl, rfl, _, _, rfl, rfl⟩
theorem inx : Statement .inx := ⟨rfl, rfl, _, _, rfl, rfl⟩
theorem bneRel (off : Byte) : Statement (.bneRel off) := ⟨rfl, rfl, _, _, rfl, rfl⟩

end Sys2Proof.Laws.EncodeShape
end

