-- ==== Sys2Proof/Tests/Slice0.lean ====
section
/-! SUPPORT. Tests: expected results from 95_test_vectors.md (its row is named in each comment) and from the encodings of
30_encoding.md; the smoke test of WellFormed; and for each statement with hypotheses a named witness that meets them. -/

namespace Sys2Proof.Tests

open Sys2Proof Sys2Proof.Machine

/-! ## Small states -/

/-- A draw with no register 0x00 and a mixture of flags: N, V, D, Z, C true; B, I false. -/
def draw : ResetDraw := ⟨0x5A, 0x22, 0x33, 0xFD, ⟨true, true, false, true, false, true, true⟩⟩

/-- The bytes `bs` stored at `k` and on, mod 2^16. -/
def place (s : State) (k : Word) : List Byte → State
  | [] => s
  | b :: bs => place (s.writeMem k b) (k + 1) bs

/-- The reset state of `draw` with PC at `pc` and `bs` there. -/
def atPc (pc : Word) (bs : List Byte) : State := place { State.resetWith draw [] with pc := pc } pc bs

/-- A view of the state after a step. -/
def after {α : Type} (s : State) (view : State → α) : Option α := (nextState? (step s)).map view

/-- The invariant of a concrete state, from what can be computed. -/
theorem inv_of (s : State) (h1 : s.mem.wf = true) (h2 : s.vram.wfSize Config.vramSize = true) (h3 : s.tiles.wf = true)
    (h4 : ∀ i : Fin 8, s.readMem (windowAddr i) = 0) : s.Inv := ⟨h1, h2, h3, fun _ => h4⟩

/-! ## Well-formedness -/

/-- A ROM with two rows for 0xA9 (30_encoding.md R93). -/
def duplicateRom : Rom := opcodeTable ++ [⟨0xA9, .lda, .absolute⟩]

/-- A ROM extended by LDA Absolute, which has no handler (R92). -/
def extendedRom : Rom := opcodeTable ++ [⟨0xAD, .lda, .absolute⟩]

theorem test_wf_instr : (Instr.jmpAbs 0xFFFF).wf = true := by decide
theorem test_wf_rom_duplicate_refused : duplicateRom.wf = false := by decide
theorem test_wf_rom_legal : opcodeTable.wf = true ∧ extendedRom.wf = true := by decide
theorem test_wf_pair_program_too_long_refused : blockPairWf (List.replicate 0x8001 0) [] = false := by
  unfold blockPairWf; rw [List.length_replicate]; decide
theorem test_wf_pair_partial_record_refused : blockPairWf [] (List.replicate 15 0) = false := by decide
theorem test_wf_pair_tiles_too_long_refused : blockPairWf [] (List.replicate 8208 0) = false := by
  unfold blockPairWf; rw [List.length_replicate]; decide
theorem test_wf_pair_limits_admitted : blockPairWf (List.replicate 0x8000 0) (List.replicate 8192 0) = true := by
  unfold blockPairWf; rw [List.length_replicate, List.length_replicate]; decide

/-! ## Decode: words written out from R81 and R85 -/

theorem test_decode_jmp : decode [0x4C, 0x34, 0x12] = .ok (.jmpAbs 0x1234, []) := by rfl
theorem test_decode_bne : decode [0xD0, 0xFC, 0x4C] = .ok (.bneRel 0xFC, [0x4C]) := by rfl
theorem test_decode_sei : decode [0x78] = .ok (.sei, []) := by rfl
theorem test_decode_dey : decode [0x88] = .ok (.dey, []) := by rfl
theorem test_decode_tsx : decode [0xBA] = .ok (.tsx, []) := by rfl
theorem test_decode_inx : decode [0xE8] = .ok (.inx, []) := by rfl
theorem test_decode_ldy : decode [0xA0, 0x03] = .ok (.ldyImm 0x03, []) := by rfl
theorem test_decode_ldx : decode [0xA2, 0xFF] = .ok (.ldxImm 0xFF, []) := by rfl
theorem test_decode_lda : decode [0xA9, 0x40] = .ok (.ldaImm 0x40, []) := by rfl
theorem test_decode_ldax : decode [0xBD, 0x00, 0x03] = .ok (.ldaAbsX 0x0300, []) := by rfl
theorem test_decode_sta : decode [0x8D, 0x10, 0x03] = .ok (.staAbs 0x0310, []) := by rfl
theorem test_decode_absent : decode [0x9A] = .error (.absent 0x9A) := by rfl
theorem test_decode_truncated : decode [0xA9] = .error (.truncated 0xA9) := by rfl
theorem test_decode_no_handler : decodeWith extendedRom [0xAD, 0x00, 0x03] = .error (.noHandler 0xAD) := by rfl
theorem test_decodeTableWord :
    decodeTableWord 24 0x12344C = some (.jmpAbs 0x1234) ∧ decodeTableWord 8 0x12344C = some (.jmpAbs 0x0000) ∧
      decodeTableWord 16 0xFCD0 = some (.bneRel 0xFC) ∧ decodeTableWord 8 0x00 = none := by decide
theorem test_withFetchWord :
    after (State.reset.withFetchWord 24 0x12344C) State.pc = some 0x1234 ∧
      after (State.reset.withFetchWord 16 0x80A9) (fun t => (t.a, t.p.n, t.pc)) = some (0x80, true, 0x8002) := by decide

/-- The forms of R90. -/
theorem test_assembly :
    (Instr.ldaAbsX 0x03AF).assembly 0x8000 = ['L', 'D', 'A', ' ', '$', '0', '3', 'A', 'F', ',', 'X'] ∧
      (Instr.ldyImm 0x03).assembly 0x8000 = ['L', 'D', 'Y', ' ', '#', '$', '0', '3'] ∧
      (Instr.bneRel 0xFC).assembly 0x8006 = ['B', 'N', 'E', ' ', '$', '8', '0', '0', '4'] := by decide

/-! ## Instructions, one cycle each -/

/-- B2: the operand bytes wrap to 0x0000. -/
theorem test_jmp_wraps : after (atPc 0xFFFE [0x4C, 0x00, 0x90]) State.pc = some 0x9000 := by decide
/-- B10: taken, the sum wraps. -/
theorem test_bne_taken_wraps :
    after { atPc 0x0000 [0xD0, 0x80] with p := ⟨true, true, true, true, true, false, true⟩ } State.pc = some 0xFF82 := by
  decide
/-- B5: not taken. -/
theorem test_bne_not_taken : after (atPc 0x8006 [0xD0, 0xFC]) State.pc = some 0x8008 := by decide
/-- C1. -/
theorem test_sei :
    after (atPc 0x8000 [0x78]) (fun t => (t.p, t.pc)) = some (⟨true, true, false, true, true, true, true⟩, 0x8001) := by
  decide
/-- D3: wrap, C unchanged. -/
theorem test_dey_wraps :
    after { atPc 0x8005 [0x88] with y := 0x00 } (fun t => (t.y, t.p.n, t.p.z, t.p.c, t.pc)) =
      some (0xFF, true, false, true, 0x8006) := by decide
/-- D2. -/
theorem test_dey_to_zero :
    after { atPc 0x8005 [0x88] with y := 0x01 } (fun t => (t.y, t.p.n, t.p.z)) = some (0x00, false, true) := by decide
/-- D10. -/
theorem test_tsx :
    after (atPc 0x8000 [0xBA]) (fun t => (t.x, t.sp, t.p.n, t.p.z, t.pc)) = some (0xFD, 0xFD, true, false, 0x8001) := by
  decide
/-- D9: tells bit 7 from bit 6. -/
theorem test_inx_bit_seven :
    after { atPc 0x8004 [0xE8] with x := 0x3F } (fun t => (t.x, t.p.n, t.p.z)) = some (0x40, false, false) := by decide
/-- D7: wrap. -/
theorem test_inx_wraps :
    after { atPc 0x8004 [0xE8] with x := 0xFF } (fun t => (t.x, t.p.n, t.p.z, t.p.c)) =
      some (0x00, false, true, true) := by decide
/-- E2. -/
theorem test_ldy :
    after (atPc 0x8002 [0xA0, 0x80]) (fun t => (t.y, t.p.z, t.p.n, t.pc)) = some (0x80, false, true, 0x8004) := by decide
/-- E4. -/
theorem test_ldx :
    after (atPc 0x8000 [0xA2, 0x00]) (fun t => (t.x, t.p.z, t.p.n, t.pc)) = some (0x00, true, false, 0x8002) := by decide
/-- L1-2. -/
theorem test_lda :
    after (atPc 0x8000 [0xA9, 0xFF]) (fun t => (t.a, t.p.z, t.p.n, t.pc)) = some (0xFF, false, true, 0x8002) := by decide
/-- E8: the sum wraps to 0x0010. -/
theorem test_ldax_wraps :
    after (place { atPc 0x8000 [0xBD, 0xF0, 0xFF] with x := 0x20 } 0x0010 [0x9C]) (fun t => (t.a, t.p.n, t.p.z, t.pc)) =
      some (0x9C, true, false, 0x8003) := by decide
/-- E11: it reads its own opcode. -/
theorem test_ldax_reads_itself :
    after { atPc 0x8000 [0xBD, 0xFB, 0x7F] with x := 0x05 } State.a = some 0xBD := by decide
/-- E12: a store, flags unchanged. -/
theorem test_sta :
    after (atPc 0x8002 [0x8D, 0x10, 0x03]) (fun t => (t.readMem 0x0310, t.p, t.pc)) = some (0x5A, draw.p, 0x8005) := by
  decide
/-- E14: 0x2008 is plain storage. -/
theorem test_sta_beside_the_window :
    after (atPc 0x8000 [0x8D, 0x08, 0x20]) (fun t => t.readMem 0x2008) = some 0x5A := by decide

/-! ## Window, ports, faults, display -/

/-- F3: the old high byte is dropped, the window byte is cleared. -/
theorem test_address_port :
    after { atPc 0x8000 [0x8D, 0x06, 0x20] with a := 0x56, vptr := 0x1234 } (fun t => (t.vptr, t.readMem 0x2006)) =
      some (0x3456, 0x00) := by decide
/-- F7: the last VRAM byte. -/
theorem test_data_port :
    after { atPc 0x8000 [0x8D, 0x07, 0x20] with a := 0x0F, vptr := 0x3FFF } (fun t => (t.vram.get 0x3FFF, t.vptr)) =
      some (0x0F, 0x4000) := by decide
/-- F8, J2. -/
theorem test_vram_range :
    after { atPc 0x8000 [0x8D, 0x07, 0x20] with a := 0x0F, vptr := 0x4000 }
      (fun t => (t.run, t.pc, t.readMem 0x2007, t.vptr)) =
      some (.stopped (.vramRangeError 0x8D 0x8000 0x4000), 0x8003, 0x0F, 0x4000) := by decide
/-- E15: no PPU effect, and the byte is cleared. -/
theorem test_other_port :
    after { atPc 0x8000 [0x8D, 0x03, 0x20] with vptr := 0x1234 } (fun t => (t.vptr, t.vram, t.readMem 0x2003)) =
      some (0x1234, [], 0x00) := by decide
/-- A3, J1. -/
theorem test_decode_error :
    after (atPc 0x8000 [0x9A]) (fun t => (t.run, t.pc)) = some (.stopped (.decodeError 0x9A 0x8000), 0x8000) := by decide
/-- J5. -/
theorem test_nothing_runs_after_a_fault :
    nextState? (step { State.reset with run := .stopped (.decodeError 0x9A 0x8000) }) = none := by decide
/-- J3. -/
theorem test_display_closed :
    after { atPc 0x8000 [0xE8] with display := [.closed] } (fun t => (t.run, t.x)) = some (.terminated, 0x23) := by decide
/-- 93 item 6, with an extended ROM. -/
theorem test_unimplemented :
    (nextState? ((atPc 0x8000 [0xAD]).cycle extendedRom)).map State.run =
      some (.stopped (.unimplementedInstruction 0xAD 0x8000)) := by decide

/-! ## Tiles, frames, boot -/

/-- G8: row 3 is 1 0 1 0 3 2 3 2. -/
theorem test_tile_row :
    List.ofFn (fun c => tilePixel (decodeTile [0, 0, 0, 0xAA, 0, 0, 0, 0, 0, 0, 0, 0x0F, 0, 0, 0, 0]) 3 c) =
      [1, 0, 1, 0, 3, 2, 3, 2] := by decide
/-- G5, G6. -/
theorem test_tile_columns :
    tilePixel (decodeTile [0x80]) 0 0 = 1 ∧ tilePixel (decodeTile [0x80]) 0 7 = 0 ∧
      tilePixel (decodeTile [0, 0, 0, 0, 0, 0, 0, 0, 0x01]) 0 7 = 2 := by decide
/-- H5, H6: the last cell and the byte after it. -/
theorem test_render_last_cell :
    pixelAt [(0x23BF, 1)] [(1, decodeTile (List.replicate 16 0xFF))] 232 248 = 3 ∧
      pixelAt [(0x23BF, 1)] [(1, decodeTile (List.replicate 16 0xFF))] 231 248 = 0 ∧
      pixelAt [(0x23C0, 1)] [(1, decodeTile (List.replicate 16 0xFF))] 239 255 = 0 := by decide

/-- `hdr(p, c)` of 95_test_vectors.md L2-I. -/
def hdr (p c : Byte) : List Byte := [0x4E, 0x45, 0x53, 0x1A, p, c] ++ List.replicate 10 0

/-- A buffer of one program unit and one tile unit, every byte 0x07. -/
def fullBuffer : List Byte := hdr 1 1 ++ List.replicate (16384 + 8192) 0x07

/-- I1, I2, I3, I8, I9. -/
theorem test_validate :
    validate (List.replicate 15 0x4E) = some .truncated ∧
      validate ([0, 0, 0, 0, 1, 1] ++ List.replicate 10 0) = some .badMagic ∧
      validate ([0x4E, 0x45, 0x53, 0x1B] ++ List.replicate 12 0) = some .badMagic ∧
      validate (hdr 3 0 ++ List.replicate 16 0) = some .truncated ∧ validate (hdr 0 0) = none := by decide
/-- I13: a LoadError leaves `M` and the tiles. -/
theorem test_load_error :
    (fun s : State => (s.run, s.mem, s.tiles)) (State.reset.bootCartridge (List.replicate 15 0)) =
      (.stopped (.loadError .truncated), [], []) ∧
    State.reset.bootCartridgeFaultOut (List.replicate 15 0) = some (.loadError .truncated) ∧
    State.reset.bootCartridgeFaultOut (hdr 0 0) = none := by decide
/-- G9 through the boot load of two blocks: tile 1 is decoded, tile 2 stays empty, the program is in place. -/
theorem test_boot_blocks :
    (nextState? (State.reset.bootBlocks [0xA2, 0xFF] (List.replicate 16 0 ++ List.replicate 16 0xFF))).map
      (fun s => (tilePixel (s.tiles.get 1) 7 7, s.tiles.length, s.readMem 0x8000, s.readMem 0x8001, s.readMem 0x8002)) =
      some (3, 1, 0xA2, 0xFF, 0x00) := by decide
/-- R51 at the edges of the regions. -/
theorem test_regions :
    region 0x1FFF = .lowRam ∧ region 0x2000 = .ioWindow ∧ region 0x2007 = .ioWindow ∧ region 0x2008 = .midRam ∧
      region 0x7FFF = .midRam ∧ region 0x8000 = .programRegion := by decide

/-! ## Witnesses: each meets the hypotheses of the statement in its name -/

/-- STA to the address port. -/
def storeAddr : State := atPc 0x8000 [0x8D, 0x06, 0x20]
/-- STA to the data port, VPTR at the last VRAM byte. -/
def storeData : State := { atPc 0x8000 [0x8D, 0x07, 0x20] with vptr := 0x3FFF }
/-- STA to the data port, VPTR just past VRAM. -/
def storeBeyond : State := { atPc 0x8000 [0x8D, 0x07, 0x20] with vptr := 0x4000 }
/-- STA to plain storage. -/
def storePlain : State := atPc 0x8000 [0x8D, 0x00, 0x06]
/-- STA to window offset 3. -/
def storeOther : State := atPc 0x8000 [0x8D, 0x03, 0x20]
/-- PC in the window. -/
def inWindow : State := atPc 0x2006 []

theorem storeAddr_inv : storeAddr.Inv := inv_of _ (by decide) (by decide) (by decide) (by decide)
theorem storeData_inv : storeData.Inv := inv_of _ (by decide) (by decide) (by decide) (by decide)
theorem storeBeyond_inv : storeBeyond.Inv := inv_of _ (by decide) (by decide) (by decide) (by decide)
theorem storePlain_inv : storePlain.Inv := inv_of _ (by decide) (by decide) (by decide) (by decide)
theorem storeOther_inv : storeOther.Inv := inv_of _ (by decide) (by decide) (by decide) (by decide)
theorem inWindow_inv : inWindow.Inv := inv_of _ (by decide) (by decide) (by decide) (by decide)

theorem witness_AbsentByteRaisesDecodeError :
    (State.reset.run = .running ∧ lookup opcodeTable (State.reset.readMem State.reset.pc) = none) ∧
      inWindow.Inv ∧ inWindow.run = .running ∧ region inWindow.pc = .ioWindow :=
  ⟨by decide, inWindow_inv, by decide, by decide⟩

theorem witness_DecodeInvertsEncode : (Instr.staAbs 0xFF00).wf = true := by decide

theorem witness_EncodeInvertsDecode : decode [0x8D, 0xFF, 0x00, 0x9A] = .ok (.staAbs 0x00FF, [0x9A]) := by rfl

theorem witness_LegalRomHasOneEntryPerByte :
    extendedRom.wf = true ∧ (⟨0xAD, .lda, .absolute⟩ : RomRow) ∈ extendedRom ∧ duplicateRom.wf = false := by decide

theorem witness_PairWithoutHandlerIsUnimplemented :
    (atPc 0x8000 [0xAD]).run = .running ∧
      lookup extendedRom ((atPc 0x8000 [0xAD]).readMem (atPc 0x8000 [0xAD]).pc) = some (.lda, .absolute) ∧
      (Mnemonic.lda, Mode.absolute) ∉ opcodeTable.map fun row => (row.mnemonic, row.mode) := by decide

theorem witness_AssembledBranchReachesItsTarget :
    branchOffset 0x8000 0x8081 = some 0x7F ∧ branchOffset 0x8000 0x7F82 = some 0x80 ∧
      branchOffset 0x8000 0x8082 = none ∧ { State.reset.p with z := false }.z = false := by decide

theorem witness_StepRunsTheDecodedInstruction :
    storeAddr.run = .running ∧
      decode [storeAddr.readMem storeAddr.pc, storeAddr.readMem (storeAddr.pc + 1), storeAddr.readMem (storeAddr.pc + 2)] =
        .ok (.staAbs 0x2006, []) := ⟨by decide, by rfl⟩

theorem witness_FinalRunStatesRunNoCycle :
    (State.reset.raise (.decodeError 0x00 0x8000)).run = .stopped (.decodeError 0x00 0x8000) ∧
      (State.reset.setRun .terminated).run = .terminated := by decide

theorem witness_DisplayAnswerEndsTheCycle :
    ∀ d ∈ [[], [.ready], [.closed], [.silent]], ∃ u, (storeAddr.setDisplay d).cycleToRender opcodeTable = .done u ∧
      (storeAddr.setDisplay d).nextAnswer = d.headD .ready := by
  intro d hd
  simp only [List.mem_cons, List.not_mem_nil, or_false] at hd
  rcases hd with rfl | rfl | rfl | rfl <;> exact ⟨_, rfl, rfl⟩

theorem witness_RunningCycleEndsWhenTheHostAnswers : storeAddr.run = .running ∧ storeAddr.hostAnswers :=
  ⟨by decide, by unfold State.hostAnswers; decide⟩

/-- The fetch clauses of the eleven instruction statements. -/
theorem witness_instruction_bytes :
    ∀ op ∈ [0x4C, 0xD0, 0x78, 0x88, 0xBA, 0xE8, 0xA0, 0xA2, 0xA9, 0xBD, 0x8D],
      (atPc 0x8000 [op]).readMem (atPc 0x8000 [op]).pc = op := by decide

/-- The last byte of an indexed sum before it wraps, and the first after it (E8). -/
theorem witness_LdaAbsoluteIndexedXLoadsA :
    (place { atPc 0x8000 [] with x := 0x0F } 0xFFFF [0x9C]).readMem (BitVec.ofNat 16 ((0xFFF0 : Word).toNat + 0x0F)) =
      0x9C ∧
    (place { atPc 0x8000 [] with x := 0x20 } 0x0010 [0x9C]).readMem (BitVec.ofNat 16 ((0xFFF0 : Word).toNat + 0x20)) =
      0x9C := by decide

theorem witness_StoreReachesOneByteOnly :
    storePlain.mem.wf = true ∧ (0x8000 : Word) ≠ eaAbsolute 0x0600 := by decide

/-- For RegisterWritersAreTheTable, RegisterReadersAreTheTable, FlagWritersAndReadersAreTheTable and
RulesLeaveThePpuAloneAndOnlyStaStores: SEI is outside every exception they name, and BNE with equal Z meets the last. -/
theorem witness_exec_tables :
    (∃ t, exec .sei storePlain = .next t) ∧ (∀ v, Instr.sei ≠ .ldaImm v) ∧ (∀ v, Instr.sei ≠ .ldaAbsX v) ∧
      (∀ v, Instr.sei ≠ .ldxImm v) ∧ Instr.sei ≠ .tsx ∧ Instr.sei ≠ .inx ∧ (∀ v, Instr.sei ≠ .ldyImm v) ∧
      Instr.sei ≠ .dey ∧ (∀ v, Instr.sei ≠ .staAbs v) ∧ (∀ v, Instr.sei ≠ .bneRel v) ∧
      (∃ t, exec (.bneRel 0xFE) storePlain = .next t) ∧ { storePlain.p with c := false }.z = storePlain.p.z := by
  refine ⟨⟨_, rfl⟩, ?_, ?_, ?_, ?_, ?_, ?_, ?_, ?_, ?_, ⟨_, rfl⟩, rfl⟩ <;> simp

theorem witness_StepKeepsTheInvariant : storeData.Inv ∧ ∃ t, step storeData = .next t := ⟨storeData_inv, _, rfl⟩

theorem witness_BootMeetsTheInvariant :
    (∃ s, powerOnWith opcodeTable draw [] (hdr 0 0) = .next s) ∧
      ∃ s, (State.resetWith draw []).bootBlocks [0xE8] (List.replicate 16 0xFF) = .next s := ⟨⟨_, rfl⟩, _, rfl⟩

theorem witness_WindowIsClearAtInstructionStart :
    inWindow.Inv ∧ inWindow.run = .running ∧ region (inWindow.eaAbsoluteX 0x1FE5) = .ioWindow ∧
      region (inWindow.eaAbsoluteX 0x1FDE) = .ioWindow ∧ region inWindow.pc = .ioWindow ∧
      ∃ t, exec (.staAbs (windowAddr 7)) inWindow = .next t :=
  ⟨inWindow_inv, by decide, by decide, by decide, by decide, _, rfl⟩

theorem witness_CycleClearsTheWindowAndNothingElse :
    storeOther.mem.wf = true ∧ storeOther.fetch opcodeTable = .instr (.staAbs 0x2003) ∧
      (∃ t, exec (.staAbs 0x2003) storeOther = .next t) ∧ ∃ u, step storeOther = .next u ∧ u.unfaulted :=
  ⟨by decide, by decide, ⟨_, rfl⟩, _, rfl, by intro r; show RunState.running ≠ _; simp⟩

theorem witness_AtMostOnePortActs :
    storeAddr.Inv ∧ storeAddr.run = .running ∧ ∃ t, exec (.staAbs 0x2006) storeAddr = .next t ∧ t.snapshot[6] ≠ 0x00 :=
  ⟨storeAddr_inv, by decide, _, rfl, by decide⟩

theorem witness_StoreThenLoadRoundTrip :
    (storePlain.Inv ∧ storePlain.run = .running ∧ storePlain.fetch opcodeTable = .instr (.staAbs 0x0600) ∧
      ∃ t, step storePlain = .next t ∧ t.unfaulted) ∧
    (storeOther.Inv ∧ storeOther.run = .running ∧ storeOther.fetch opcodeTable = .instr (.staAbs 0x2003) ∧
      ∃ t, step storeOther = .next t ∧ t.unfaulted) :=
  ⟨⟨storePlain_inv, by decide, by decide, _, rfl, by intro r; show RunState.running ≠ _; simp⟩,
   ⟨storeOther_inv, by decide, by decide, _, rfl, by intro r; show RunState.running ≠ _; simp⟩⟩

/-- The four cases of a snapshot. -/
theorem witness_PpuUpdateServesTwoPorts :
    ∀ a ∈ [(0x00 : Byte), 0x21], ∀ d ∈ [(0x00 : Byte), 0x01],
      (#v[1, 2, 3, 4, 5, 6, a, d] : Snapshot)[6] = a ∧ (#v[1, 2, 3, 4, 5, 6, a, d] : Snapshot)[7] = d := by decide

theorem witness_DataPortStoresAtVptr :
    storeData.vptr.toNat < 0x4000 ∧ storeData.vram.wfSize 0x4000 = true ∧ 0x4000 ≤ storeBeyond.vptr.toNat ∧
      (0x3F : Byte).toNat * 256 + (0xFF : Byte).toNat < 0x4000 ∧ 0x4000 ≤ (0x40 : Byte).toNat * 256 + (0x00 : Byte).toNat ∧
      ∃ u, storeBeyond.cycleToRender opcodeTable = .raised (.vramRangeError 0x8D 0x8000 0x4000) u :=
  ⟨by decide, by decide, by decide, by decide, by decide, _, rfl⟩

theorem witness_StoreToTheAddressPortMovesVptr :
    storeAddr.Inv ∧ storeAddr.run = .running ∧ storeAddr.fetch opcodeTable = .instr (.staAbs 0x2006) ∧
      storeAddr.a ≠ 0x00 ∧ storeAddr.hostAnswers :=
  ⟨storeAddr_inv, by decide, by decide, by decide, by unfold State.hostAnswers; decide⟩

theorem witness_StoreToTheDataPortWritesVram :
    storeData.Inv ∧ storeData.run = .running ∧ storeData.fetch opcodeTable = .instr (.staAbs 0x2007) ∧
      storeData.a ≠ 0x00 ∧ storeData.hostAnswers ∧ storeData.vptr.toNat < 0x4000 :=
  ⟨storeData_inv, by decide, by decide, by decide, by unfold State.hostAnswers; decide, by decide⟩

theorem witness_DataWriteBeyondVramStopsTheBlock :
    storeBeyond.Inv ∧ storeBeyond.run = .running ∧ storeBeyond.fetch opcodeTable = .instr (.staAbs 0x2007) ∧
      storeBeyond.a ≠ 0x00 ∧ 0x4000 ≤ storeBeyond.vptr.toNat :=
  ⟨storeBeyond_inv, by decide, by decide, by decide, by decide⟩

/-- With a byte on offset 3, and with 0x00 on the data port beyond VRAM. -/
theorem witness_ZeroByteOrOtherOffsetIsNoPortWrite :
    (storeOther.Inv ∧ storeOther.run = .running ∧ storeOther.fetch opcodeTable = .instr (.staAbs 0x2003) ∧
      region 0x2003 = .ioWindow ∧ (0x2003 : Word).toNat < 0x2006 ∧ storeOther.hostAnswers) ∧
    ((storeBeyond.setA 0x00).Inv ∧ (storeBeyond.setA 0x00).run = .running ∧
      (storeBeyond.setA 0x00).fetch opcodeTable = .instr (.staAbs 0x2007) ∧ region 0x2007 = .ioWindow ∧
      (storeBeyond.setA 0x00).a = 0x00 ∧ (storeBeyond.setA 0x00).hostAnswers) :=
  ⟨⟨storeOther_inv, by decide, by decide, by decide, by decide, by unfold State.hostAnswers; decide⟩,
   ⟨inv_of _ (by decide) (by decide) (by decide) (by decide), by decide, by decide, by decide, by decide,
    by unfold State.hostAnswers; decide⟩⟩

theorem witness_VramByteNeverReturnsToZero :
    { storeData with vram := [(0x3FFF, 0x07)] }.Inv ∧ (∃ t, step { storeData with vram := [(0x3FFF, 0x07)] } = .next t) ∧
      Memory.get [(0x3FFF, 0x07)] 0x3FFF ≠ 0x00 :=
  ⟨inv_of _ (by decide) (by decide) (by decide) (by decide), ⟨_, rfl⟩, by decide⟩

/-- For TilesSpAndFourFlagsNeverChange and InterruptDisableHasNoEffect. -/
theorem witness_step_answers : ∃ t, step storeAddr = .next t := ⟨_, rfl⟩

/-- The last pixel of a frame lies in the last cell of the name table (H5). -/
theorem witness_RenderedPixels :
    (State.reset.setVram [(0x23BF, 1)]).vram.get (0x2000 + (((239 : Fin 240).val / 8) * 32 + (255 : Fin 256).val / 8)) =
      1 := by decide

/-- Two states that agree on the name table and on tiles 0 to 255 and differ elsewhere in VRAM and in tile 256. -/
theorem witness_FrameDependsOnNameTableAndTilesOnly :
    (∀ k, 0x2000 ≤ k → k < 0x2000 + 960 →
      (State.reset.setVram [(0x1FFF, 1), (0x23C0, 1)]).vram.get k = State.reset.vram.get k) ∧
    (∀ n, n < 256 →
      (State.reset.setTiles [(256, decodeTile [0xFF])]).tiles.get n = State.reset.tiles.get n) := by
  constructor
  · intro k h1 h2
    have ha : k ≠ 0x1FFF := by omega
    have hb : k ≠ 0x23C0 := by omega
    show (if k = 0x1FFF then _ else if k = 0x23C0 then _ else _) = _
    rw [if_neg ha, if_neg hb]
    rfl
  · intro n h
    have hn : n ≠ 256 := by omega
    show (if n = 256 then _ else _) = _
    rw [if_neg hn]
    rfl

theorem witness_OneFramePerUnfaultedCycle :
    (∃ t, step storeData = .next t ∧ t.unfaulted) ∧
      ∃ t, step storeBeyond = .next t ∧ t.run = .stopped (.vramRangeError 0x8D 0x8000 0x4000) :=
  ⟨⟨_, rfl, by intro r; show RunState.running ≠ _; simp⟩, _, rfl, by decide⟩

theorem witness_PpuStateDoesNotReachTheCpu :
    (∃ t, step storeAddr = .next t ∧ t.unfaulted) ∧
      ∃ u, step { storeAddr with vram := [(5, 6)], vptr := 0x9999, tiles := [(1, decodeTile [0xFF])] } = .next u ∧
        u.unfaulted :=
  ⟨⟨_, rfl, by intro r; show RunState.running ≠ _; simp⟩, _, rfl, by intro r; show RunState.running ≠ _; simp⟩

theorem witness_FaultsComeFromDecodeOrThePpuUpdate :
    (storeBeyond.Inv ∧ ∃ t, step storeBeyond = .next t ∧ t.run = .stopped (.vramRangeError 0x8D 0x8000 0x4000)) ∧
      inWindow.Inv ∧ ∃ t, step inWindow = .next t ∧ t.run = .stopped (.decodeError 0x00 0x2006) :=
  ⟨⟨storeBeyond_inv, _, rfl, by decide⟩, inWindow_inv, _, rfl, by decide⟩

theorem witness_ResetValues : ∃ s, s = State.resetWith draw [.ready, .closed] := ⟨_, rfl⟩

theorem witness_LoadProgramCopiesTheBlock :
    Memory.wf [] = true ∧ (List.replicate 0x8000 (0x07 : Byte)).length ≤ 0x8000 ∧
      0x8000 < (List.replicate 0x8001 (0x07 : Byte)).length := by
  rw [List.length_replicate, List.length_replicate]; decide

theorem witness_CartridgeChecksInOrder :
    ((hdr 3 1).getD 4 0).toNat = 3 ∧ ((hdr 3 1).getD 5 0).toNat = 1 ∧ validate (hdr 3 1) = some .truncated := by decide

theorem witness_MemoryImageAfterBoot :
    (fullBuffer.getD 4 0).toNat = 1 ∧ (fullBuffer.getD 5 0).toNat = 1 ∧ validate fullBuffer = none ∧
      ∃ s, powerOn draw [] fullBuffer = .next s := by
  have h4 : fullBuffer.getD 4 0 = 1 := rfl
  have h5 : fullBuffer.getD 5 0 = 1 := rfl
  have hp : prgLen fullBuffer = 16384 := by unfold prgLen; rw [h4]; rfl
  have hc : chrLen fullBuffer = 8192 := by unfold chrLen; rw [h5]; rfl
  have hlen : fullBuffer.length = 24592 := by
    unfold fullBuffer hdr
    rw [List.length_append, List.length_append, List.length_replicate, List.length_replicate]; decide
  have hm : fullBuffer.take 4 = magic := rfl
  refine ⟨by rw [h4]; rfl, by rw [h5]; rfl, ?_, ?_⟩
  · unfold validate
    rw [hp, hc, hlen, hm]; decide
  · exact ⟨_, by unfold powerOn powerOnWith; rw [if_pos (by decide)]⟩

theorem witness_BlockPairOutOfLimitsIsRefused :
    0x8000 < (List.replicate 0x8001 (0 : Byte)).length ∧ (List.replicate 15 (0 : Byte)).length % 16 ≠ 0 ∧
      8192 < (List.replicate 8208 (0 : Byte)).length ∧ ([0xE8] : List Byte).length ≤ 0x8000 := by
  rw [List.length_replicate, List.length_replicate, List.length_replicate]; decide

/-- A pair at both limits, and a state it loads into. -/
theorem witness_BlockPairLoads :
    (List.replicate 0x8000 (7 : Byte)).length ≤ 0x8000 ∧ (List.replicate 8192 (7 : Byte)).length % 16 = 0 ∧
      (List.replicate 8192 (7 : Byte)).length ≤ 8192 ∧ storePlain.mem.wf = true ∧ storePlain.tiles.wf = true := by
  rw [List.length_replicate, List.length_replicate]; decide

theorem witness_LoadErrorGoesOutOnce :
    State.reset.run = .running ∧
      State.reset.bootCartridgeFaultOut (hdr 3 0) = some (.loadError .truncated) := by decide

end Sys2Proof.Tests
end

section
/-! What the boot load puts on `fault_out`, and the silence of a block it has stopped (60_exceptions.md R254, R257;
70_reset_and_hazards.md R283, R284). -/

namespace Sys2Proof.Machine

variable {s : State} {rom : Rom} {buf : List Byte} {reason : LoadReason} {r : FaultRecord} {f : Fault}

/-! ## No cycle runs from a stopped state (R37, R258) -/

theorem State.cycleToRender_stopped (h : s.run = .stopped r) : s.cycleToRender rom = .stuck (.blockStopped r) := by
  simp [State.cycleToRender, h]

theorem State.frameOut_of_stuck (h : s.cycleToRender rom = .stuck f) : s.frameOut rom = none := by
  simp [State.frameOut, h]

theorem State.faultOut_of_stuck (h : s.cycleToRender rom = .stuck f) : s.faultOut rom = none := by
  simp [State.faultOut, h]

/-! ## The boot load of a cartridge buffer -/

/-- A failing check is fault entry in the state before the boot load (R254, R283). -/
theorem State.bootCartridge_error (h : validate buf = some reason) :
    s.bootCartridge buf = s.raise (.loadError reason) := by
  rw [State.bootCartridge, State.loadCartridge_error h, State.endBoot_error]

/-- A boot load that passes every check leaves RUN as it was (R284). -/
theorem State.bootCartridge_run_of_valid (h : validate buf = none) : (s.bootCartridge buf).run = s.run := by
  rw [State.bootCartridge, State.loadCartridge_ok h, State.endBoot_ok]

theorem State.bootCartridgeFaultOut_eq (s : State) (buf : List Byte) :
    s.bootCartridgeFaultOut buf = (validate buf).map FaultRecord.loadError := by
  unfold State.bootCartridgeFaultOut
  cases h : validate buf with
  | none => rw [State.loadCartridge_ok h, bootFault_ok, Option.map_none]
  | some reason => rw [State.loadCartridge_error h, bootFault_error, Option.map_some]

/-- Whatever state it starts from, a boot load that sends a record out stops the block with that record. -/
theorem State.bootCartridge_stopped_of_faultOut (h : s.bootCartridgeFaultOut buf = some r) :
    (s.bootCartridge buf).run = .stopped r := by
  rw [State.bootCartridgeFaultOut_eq, Option.map_eq_some_iff] at h
  obtain ⟨reason, hv, rfl⟩ := h
  rw [State.bootCartridge_error hv, State.raise_run]

/-- From a running state the record goes out exactly when the block is stopped with it. -/
theorem State.bootCartridgeFaultOut_iff_stopped (hrun : s.run = .running) :
    s.bootCartridgeFaultOut buf = some r ↔ (s.bootCartridge buf).run = .stopped r := by
  refine ⟨State.bootCartridge_stopped_of_faultOut, fun h => ?_⟩
  cases hv : validate buf with
  | none =>
    rw [State.bootCartridge_run_of_valid hv, hrun] at h
    cases h
  | some reason =>
    rw [State.bootCartridge_error hv, State.raise_run] at h
    rw [State.bootCartridgeFaultOut_eq, hv, Option.map_some, RunState.stopped.inj h]

/-! ## The boot load of two blocks and the reset sequence -/

/-- A pair within the limits loads, and a refused pair sends nothing. -/
theorem State.bootBlocksFaultOut_eq_none (s : State) (prg chr : List Byte) : s.bootBlocksFaultOut prg chr = none := by
  unfold State.bootBlocksFaultOut
  by_cases hwf : blockPairWf prg chr = true
  · rw [if_pos hwf, State.loadBlocks_of_le (blockPairWf_iff.1 hwf).1, bootFault_ok]
  · rw [if_neg hwf]

/-- With a legal dispatch ROM the reset sequence sends what its boot load sends. -/
theorem powerOnFaultOut_of_wf (h : rom.wf = true) (draw : ResetDraw) (display : List DisplayAnswer) (buf : List Byte) :
    powerOnFaultOut rom draw display buf = (State.resetWith draw display).bootCartridgeFaultOut buf :=
  if_pos h

theorem opcodeTable_wf : opcodeTable.wf = true := by decide

/-- Settles O60: `validate` decides what a boot load sends, the record sent is the one RUN holds afterwards, and from a
stopped state no cycle runs. -/
theorem loadErrorGoesOutOnce : Obligations.LoadErrorGoesOutOnce := by
  refine ⟨State.bootCartridgeFaultOut_eq, fun s buf r => State.bootCartridgeFaultOut_iff_stopped,
    State.bootBlocksFaultOut_eq_none, fun draw display buf => ?reset, fun s buf r h => ?silence⟩
  case reset =>
    rw [powerOnFaultOut_of_wf opcodeTable_wf, State.bootCartridgeFaultOut_eq]
  case silence =>
    have hstuck : (s.bootCartridge buf).cycleToRender opcodeTable = .stuck (.blockStopped r) :=
      State.cycleToRender_stopped (State.bootCartridge_stopped_of_faultOut h)
    exact ⟨State.frameOut_of_stuck hstuck, State.faultOut_of_stuck hstuck⟩

end Sys2Proof.Machine
end

section
/-! What an instruction's rule reads and writes (10_state.md R27, R29; 30_encoding.md R100): the equation of each rule, what
every rule leaves unchanged, and the registers and flags it depends on. -/

namespace Sys2Proof.Machine

variable {i : Instr} {s t : State}

/-! ## The rule of each instruction as one update of the state (40 to 43) -/

@[simp] theorem exec_jmpAbs (target : Word) (s : State) : exec (.jmpAbs target) s = .next (s.setPc target) := rfl

@[simp] theorem exec_sei (s : State) : exec .sei s = .next (s.setInterruptDisable.advancePc 1) := rfl

@[simp] theorem exec_dey (s : State) :
    exec .dey s = .next (((s.setY (s.y - 1)).nz (s.y - 1)).advancePc 1) := rfl

@[simp] theorem exec_tsx (s : State) : exec .tsx s = .next (((s.setX s.sp).nz s.sp).advancePc 1) := rfl

@[simp] theorem exec_inx (s : State) :
    exec .inx s = .next (((s.setX (s.x + 1)).nz (s.x + 1)).advancePc 1) := rfl

@[simp] theorem exec_ldyImm (imm : Byte) (s : State) :
    exec (.ldyImm imm) s = .next (((s.setY imm).nz imm).advancePc 2) := rfl

@[simp] theorem exec_ldxImm (imm : Byte) (s : State) :
    exec (.ldxImm imm) s = .next (((s.setX imm).nz imm).advancePc 2) := rfl

@[simp] theorem exec_ldaImm (imm : Byte) (s : State) :
    exec (.ldaImm imm) s = .next (((s.setA imm).nz imm).advancePc 2) := rfl

@[simp] theorem exec_ldaAbsX (base : Word) (s : State) :
    exec (.ldaAbsX base) s =
      .next (((s.setA (s.readMem (s.eaAbsoluteX base))).nz (s.readMem (s.eaAbsoluteX base))).advancePc 3) := rfl

@[simp] theorem exec_staAbs (addr : Word) (s : State) :
    exec (.staAbs addr) s = .next ((s.writeMem addr s.a).advancePc 3) := rfl

/-- BNE writes PC on both of its paths and nothing else (R122). -/
@[simp] theorem exec_bneRel (off : Byte) (s : State) :
    exec (.bneRel off) s = .next (s.setPc (if s.p.z then s.pc + 2 else s.pc + 2 + relativeOffset off)) := by
  by_cases hz : s.p.z = true
  · simp only [exec, execBneRel, if_pos hz]
    rfl
  · simp only [exec, execBneRel, if_neg hz]
    rfl

/-! ## What every rule leaves unchanged -/

/-- No rule writes SP, VRAM, VPTR, TILES, RUN or the host's answers. -/
theorem exec_frame (h : exec i s = .next t) :
    t = { s with a := t.a, x := t.x, y := t.y, pc := t.pc, p := t.p, mem := t.mem } := by
  cases i with
  | _ => simp at h; subst h; rfl

theorem exec_sp (h : exec i s = .next t) : t.sp = s.sp := by rw [exec_frame h]
theorem exec_vram (h : exec i s = .next t) : t.vram = s.vram := by rw [exec_frame h]
theorem exec_vptr (h : exec i s = .next t) : t.vptr = s.vptr := by rw [exec_frame h]
theorem exec_tiles (h : exec i s = .next t) : t.tiles = s.tiles := by rw [exec_frame h]
theorem exec_run (h : exec i s = .next t) : t.run = s.run := by rw [exec_frame h]
theorem exec_display (h : exec i s = .next t) : t.display = s.display := by rw [exec_frame h]

/-- No rule writes `P.C`, `P.D`, `P.B` or `P.V` (R29). -/
theorem exec_flags_frame (h : exec i s = .next t) : t.p = { s.p with n := t.p.n, i := t.p.i, z := t.p.z } := by
  cases i with
  | _ => simp at h; subst h; rfl

theorem exec_c (h : exec i s = .next t) : t.p.c = s.p.c := by rw [exec_flags_frame h]
theorem exec_d (h : exec i s = .next t) : t.p.d = s.p.d := by rw [exec_flags_frame h]
theorem exec_b (h : exec i s = .next t) : t.p.b = s.p.b := by rw [exec_flags_frame h]
theorem exec_v (h : exec i s = .next t) : t.p.v = s.p.v := by rw [exec_flags_frame h]

/-- The writers of A are the two LDA (R27). -/
theorem exec_keeps_a (h : exec i s = .next t) (hImm : ∀ v, i ≠ .ldaImm v) (hAbsX : ∀ base, i ≠ .ldaAbsX base) :
    t.a = s.a := by
  cases i with
  | ldaImm v => exact absurd rfl (hImm v)
  | ldaAbsX base => exact absurd rfl (hAbsX base)
  | _ => simp at h; simp [← h]

/-- The writers of X are LDX, TSX and INX (R27). -/
theorem exec_keeps_x (h : exec i s = .next t) (hLdx : ∀ v, i ≠ .ldxImm v) (hTsx : i ≠ .tsx) (hInx : i ≠ .inx) :
    t.x = s.x := by
  cases i with
  | ldxImm v => exact absurd rfl (hLdx v)
  | tsx => exact absurd rfl hTsx
  | inx => exact absurd rfl hInx
  | _ => simp at h; simp [← h]

/-- The writers of Y are LDY and DEY (R27). -/
theorem exec_keeps_y (h : exec i s = .next t) (hLdy : ∀ v, i ≠ .ldyImm v) (hDey : i ≠ .dey) : t.y = s.y := by
  cases i with
  | ldyImm v => exact absurd rfl (hLdy v)
  | dey => exact absurd rfl hDey
  | _ => simp at h; simp [← h]

/-- The writer of `M` is STA (R180). -/
theorem exec_keeps_mem (h : exec i s = .next t) (hSta : ∀ addr, i ≠ .staAbs addr) : t.mem = s.mem := by
  cases i with
  | staAbs addr => exact absurd rfl (hSta addr)
  | _ => simp at h; simp [← h]

/-- Every rule keeps the canonical form of `M`. -/
theorem exec_mem_wf (h : exec i s = .next t) (hm : s.mem.wf = true) : t.mem.wf = true := by
  by_cases hSta : ∃ addr, i = .staAbs addr
  · obtain ⟨addr, rfl⟩ := hSta
    simp only [exec_staAbs, Host.Outcome.next.injEq] at h
    exact h ▸ State.wf_writeMem hm addr s.a
  · rwa [exec_keeps_mem h (not_exists.1 hSta)]

/-- Settles O26: the writers' columns of R27, register by register. -/
theorem registerWritersAreTheTable : Obligations.RegisterWritersAreTheTable := fun _ _ _ h =>
  ⟨exec_keeps_a h, exec_keeps_x h, exec_keeps_y h, exec_sp h⟩

/-- Settles O29: the frame of every rule, and STA as the one writer of `M`. -/
theorem rulesLeaveThePpuAloneAndOnlyStaStores : Obligations.RulesLeaveThePpuAloneAndOnlyStaStores := fun _ _ _ h =>
  ⟨exec_vram h, exec_vptr h, exec_tiles h, exec_run h, exec_display h,
    fun hSta => State.readMem_congr (exec_keeps_mem h hSta)⟩

/-! ## What a rule reads: the same rule from a state with another value in one component -/

/-- Only STA reads A (R27). -/
theorem exec_setA (h : exec i s = .next t) (hSta : ∀ addr, i ≠ .staAbs addr) (v : Byte) :
    ∃ t', exec i (s.setA v) = .next t' ∧ t'.setA t.a = t := by
  cases i with
  | staAbs addr => exact absurd rfl (hSta addr)
  | _ => simp at h ⊢; subst h; rfl

/-- Only INX and LDA absolute,X read X (R27). -/
theorem exec_setX (h : exec i s = .next t) (hInx : i ≠ .inx) (hAbsX : ∀ base, i ≠ .ldaAbsX base) (v : Byte) :
    ∃ t', exec i (s.setX v) = .next t' ∧ t'.setX t.x = t := by
  cases i with
  | inx => exact absurd rfl hInx
  | ldaAbsX base => exact absurd rfl (hAbsX base)
  | _ => simp at h ⊢; subst h; rfl

/-- Only DEY reads Y (R27). -/
theorem exec_setY (h : exec i s = .next t) (hDey : i ≠ .dey) (v : Byte) :
    ∃ t', exec i (s.setY v) = .next t' ∧ t'.setY t.y = t := by
  cases i with
  | dey => exact absurd rfl hDey
  | _ => simp at h ⊢; subst h; rfl

/-- Only TSX reads SP (R27). -/
theorem exec_withSp (h : exec i s = .next t) (hTsx : i ≠ .tsx) (v : Byte) :
    ∃ t', exec i { s with sp := v } = .next t' ∧ { t' with sp := t.sp } = t := by
  cases i with
  | tsx => exact absurd rfl hTsx
  | _ => simp at h ⊢; subst h; rfl

/-- Only BNE reads a flag (R29). -/
theorem exec_setP (h : exec i s = .next t) (hBne : ∀ off, i ≠ .bneRel off) (q : Flags) :
    ∃ t', exec i (s.setP q) = .next t' ∧ t'.setP t.p = t := by
  cases i with
  | bneRel off => exact absurd rfl (hBne off)
  | _ => simp at h ⊢; subst h; rfl

/-- The flag BNE reads is `P.Z` (R29). -/
theorem exec_bneRel_setP {off : Byte} {q : Flags} (h : exec (.bneRel off) s = .next t) (hz : q.z = s.p.z) :
    exec (.bneRel off) (s.setP q) = .next (t.setP q) := by
  simp only [exec_bneRel, Host.Outcome.next.injEq] at h
  simp only [exec_bneRel, State.setP_p, State.setP_pc, hz, ← h]
  rfl

/-- Settles O27: a rule outside a register's readers' column runs alike, and where it overwrites the register the old
value is gone from its equation. -/
theorem registerReadersAreTheTable : Obligations.RegisterReadersAreTheTable := by
  intro i s t v h
  refine ⟨fun hSta => exec_setA h hSta v, ?lda, fun hInx hAbsX => exec_setX h hInx hAbsX v, ?ldx,
    fun hDey => exec_setY h hDey v, ?ldy, fun hTsx => exec_withSp h hTsx v⟩
  case lda => rintro (⟨imm, rfl⟩ | ⟨base, rfl⟩) <;> exact h
  case ldx => rintro (⟨imm, rfl⟩ | rfl) <;> exact h
  case ldy => rintro ⟨imm, rfl⟩; exact h

/-- Settles O28: the flags each rule writes by its equation, and BNE as the one reader of a flag. -/
theorem flagWritersAndReadersAreTheTable : Obligations.FlagWritersAndReadersAreTheTable := by
  refine ⟨fun i s t h => ⟨exec_c h, exec_d h, exec_b h, exec_v h, ?written⟩,
    fun i s t q h hBne => exec_setP h hBne q, fun off s t q h hz => exec_bneRel_setP h hz⟩
  case written =>
    cases i with
    | _ => simp at h; simp [← h]

end Sys2Proof.Machine
end

section
/-! Reset, and what a whole cycle leaves unchanged or keeps (10_state.md R37, R40; 20_memory.md R62; 30_encoding.md R100). -/

namespace Sys2Proof.Machine

variable {i : Instr} {s t u : State} {rom : Rom} {op : Byte} {pc0 : Word} {snap : Snapshot} {r : FaultRecord} {f : Fault}

/-! ## Reset (R40) -/

/-- Settles O32: at reset the three arrays are empty lists, which are canonical and read as 0x00. -/
theorem resetMeetsTheInvariant : Obligations.ResetMeetsTheInvariant := fun _ _ =>
  { mem_wf := Memory.wfSize_nil
    vram_wf := Memory.wfSize_nil
    tiles_wf := TileTable.wf_nil
    window_clear := fun _ _ => Memory.get_nil }

/-- Settles O55: an empty array reads as 0x00, an empty tile table as the empty tile, and the rest is the draw. -/
theorem resetValues : Obligations.ResetValues := by
  constructor
  · rintro draw display s rfl
    exact ⟨rfl, fun _ => Memory.get_nil, fun _ => Memory.get_nil, rfl, fun _ r c => tilePixel_emptyTile r c, rfl,
      rfl, rfl, rfl, rfl, rfl⟩
  · exact ⟨ResetDraw.zero, [], rfl⟩

/-! ## The states from which no cycle runs (R37) -/

theorem State.cycleToRender_terminated (h : s.run = .terminated) : s.cycleToRender rom = .stuck .blockTerminated := by
  simp [State.cycleToRender, h]

/-- A cycle that cannot go on answers its fault, and nothing goes out. -/
theorem step_of_stuck (h : s.cycleToRender opcodeTable = .stuck f) :
    step s = .fault f ∧ s.frameOut opcodeTable = none ∧ s.faultOut opcodeTable = none := by
  refine ⟨?_, State.frameOut_of_stuck h, State.faultOut_of_stuck h⟩
  rw [step, State.cycle, h, Phase.finish]

/-- Settles O10: in both final values of RUN the cycle is stuck before its fetch. -/
theorem finalRunStatesRunNoCycle : Obligations.FinalRunStatesRunNoCycle :=
  ⟨fun _ _ h => step_of_stuck (State.cycleToRender_stopped h),
    fun _ h => step_of_stuck (State.cycleToRender_terminated h)⟩

/-! ## The frame of a cycle -/

/-- A PPU update that completes changes VRAM and VPTR alone (R201). -/
theorem State.ppuUpdate_done_frame (h : s.ppuUpdate op pc0 snap = .done t) :
    t = { s with vram := t.vram, vptr := t.vptr } := by
  rcases s.ppuUpdate_cases op pc0 snap with ⟨m, w, hd⟩ | ⟨w, _, hr⟩
  · cases hd.symm.trans h
    rfl
  · cases hr.symm.trans h

/-- A PPU update that raises does so with VramRangeError, and has changed VPTR alone (R201, R203). -/
theorem State.ppuUpdate_raised_frame (h : s.ppuUpdate op pc0 snap = .raised r t) :
    (∃ w, r = .vramRangeError op pc0 w) ∧ t = { s with vptr := t.vptr } := by
  rcases s.ppuUpdate_cases op pc0 snap with ⟨m, w, hd⟩ | ⟨w, _, hr⟩
  · cases hd.symm.trans h
  · cases hr.symm.trans h
    exact ⟨⟨w, rfl⟩, rfl⟩

/-- The display answer changes RUN and the answers still to come (R222). -/
theorem State.displayHandOff_frame (h : s.displayHandOff = .next t) :
    t = { s with run := t.run, display := t.display } := by
  rcases State.displayHandOff_next.1 h with ⟨_, rfl⟩ | ⟨_, rfl⟩ <;> rfl

/-- Every way a cycle can end in a next state: fault entry at decode, fault entry in the PPU update of an instruction
that has completed, or the clear and the display answer after that update (R100, R256). -/
theorem State.cycle_next_cases (h : s.cycle rom = .next t) :
    s.run = .running ∧
      ((∃ r, ((s.fetch rom = .absent ∧ r = .decodeError (s.readMem s.pc) s.pc) ∨
            (s.fetch rom = .noHandler ∧ r = .unimplementedInstruction (s.readMem s.pc) s.pc)) ∧ t = s.raise r) ∨
       (∃ i u r v, s.fetch rom = .instr i ∧ exec i s = .next u ∧
          u.ppuUpdate (s.readMem s.pc) s.pc u.snapshot = .raised r v ∧ t = v.raise r) ∨
       (∃ i u v, s.fetch rom = .instr i ∧ exec i s = .next u ∧
          u.ppuUpdate (s.readMem s.pc) s.pc u.snapshot = .done v ∧ v.clearWindow.displayHandOff = .next t)) := by
  obtain ⟨hrun, ⟨r, u, hraised, rfl⟩ | ⟨u, hdone, hanswer⟩⟩ := State.cycle_next h
  · obtain ⟨-, ⟨hf, rfl, rfl⟩ | ⟨hf, rfl, rfl⟩ | ⟨i, w, hf, hexec, hppu⟩⟩ := State.cycleToRender_raised hraised
    · exact ⟨hrun, .inl ⟨_, .inl ⟨hf, rfl⟩, rfl⟩⟩
    · exact ⟨hrun, .inl ⟨_, .inr ⟨hf, rfl⟩, rfl⟩⟩
    · exact ⟨hrun, .inr (.inl ⟨i, w, r, u, hf, hexec, hppu, rfl⟩)⟩
  · obtain ⟨-, i, w, v, hf, hexec, hppu, rfl⟩ := State.cycleToRender_done hdone
    exact ⟨hrun, .inr (.inr ⟨i, w, v, hf, hexec, hppu, hanswer⟩)⟩

/-- Outside the instruction's rule a cycle changes `M`, VRAM, VPTR, RUN and the host's answers alone. -/
theorem State.cycle_frame (h : s.cycle rom = .next t) :
    ∃ u, (u = s ∨ ∃ i, exec i s = .next u) ∧
      t = { u with mem := t.mem, vram := t.vram, vptr := t.vptr, run := t.run, display := t.display } := by
  obtain ⟨-, ⟨r, -, rfl⟩ | ⟨i, u, r, v, -, hexec, hppu, rfl⟩ | ⟨i, u, v, -, hexec, hppu, hanswer⟩⟩ :=
    State.cycle_next_cases h
  · exact ⟨s, .inl rfl, rfl⟩
  · refine ⟨u, .inr ⟨i, hexec⟩, ?_⟩
    rw [(State.ppuUpdate_raised_frame hppu).2]
    rfl
  · refine ⟨u, .inr ⟨i, hexec⟩, ?_⟩
    rw [State.displayHandOff_frame hanswer, State.ppuUpdate_done_frame hppu]
    rfl

/-- Settles O46: neither a rule nor the rest of its cycle writes TILES, SP or one of the four flags. -/
theorem tilesSpAndFourFlagsNeverChange : Obligations.TilesSpAndFourFlagsNeverChange := by
  intro s t h
  obtain ⟨u, hu, ht⟩ := State.cycle_frame h
  rw [ht]
  rcases hu with rfl | ⟨i, hexec⟩
  · exact ⟨rfl, rfl, rfl, rfl, rfl, rfl⟩
  · exact ⟨exec_tiles (t := u) hexec, exec_sp (t := u) hexec, exec_c (t := u) hexec, exec_d (t := u) hexec,
      exec_b (t := u) hexec, exec_v (t := u) hexec⟩

/-! ## The invariant of the machine (R33, R34, R36, R62, R253) -/

/-- A running state that meets the invariant has a clear window. -/
theorem State.Inv.windowClear_of_running (h : s.Inv) (hrun : s.run = .running) : s.windowClear :=
  h.window_clear fun _ _ _ => by simp [hrun]

/-- A change of RUN and of the host's answers keeps the invariant where the window is clear. -/
theorem State.Inv.with_run_display (h : s.Inv) (hw : s.windowClear) (run : RunState) (display : List DisplayAnswer) :
    ({ s with run := run, display := display } : State).Inv :=
  ⟨h.mem_wf, h.vram_wf, h.tiles_wf, fun _ => hw⟩

/-- The clear establishes the invariant from the canonical form of the three arrays. -/
theorem State.inv_clearWindow (hm : s.mem.wf = true) (hv : s.vram.wfSize Config.vramSize = true)
    (ht : s.tiles.wf = true) : s.clearWindow.Inv :=
  ⟨State.wf_clearWindow hm, hv, ht, fun _ => State.windowClear_clearWindow hm⟩

/-- A block that VramRangeError stops owes no clear window (R253). -/
theorem State.inv_raise_vramRangeError (hm : s.mem.wf = true) (hv : s.vram.wfSize Config.vramSize = true)
    (ht : s.tiles.wf = true) (w : Word) : (s.raise (.vramRangeError op pc0 w)).Inv :=
  ⟨hm, hv, ht, fun hrun => absurd rfl (hrun op pc0 w)⟩

/-- A whole cycle with any dispatch ROM keeps the invariant: a fault at decode leaves the clear window as it was, a fault
in the PPU update is a VramRangeError, and a cycle without fault ends with the clear. -/
theorem State.Inv.cycle (h : s.Inv) (hc : s.cycle rom = .next t) : t.Inv := by
  obtain ⟨hrun, ⟨r, -, rfl⟩ | ⟨i, u, r, v, -, hexec, hppu, rfl⟩ | ⟨i, u, v, -, hexec, hppu, hanswer⟩⟩ :=
    State.cycle_next_cases hc
  · exact h.with_run_display (h.windowClear_of_running hrun) (.stopped r) s.display
  · obtain ⟨⟨w, rfl⟩, hv⟩ := State.ppuUpdate_raised_frame hppu
    refine State.inv_raise_vramRangeError ?_ ?_ ?_ w <;> rw [hv]
    · exact exec_mem_wf (t := u) hexec h.mem_wf
    · exact exec_vram hexec ▸ h.vram_wf
    · exact exec_tiles hexec ▸ h.tiles_wf
  · have hvram : u.vram.wfSize Config.vramSize = true := exec_vram hexec ▸ h.vram_wf
    have hv := State.ppuUpdate_done_frame hppu
    have hmem : v.mem.wf = true := by
      rw [hv]
      exact exec_mem_wf (t := u) hexec h.mem_wf
    have htiles : v.tiles.wf = true := by
      rw [hv]
      exact exec_tiles hexec ▸ h.tiles_wf
    rw [State.displayHandOff_frame hanswer]
    exact (State.inv_clearWindow hmem (State.wf_ppuUpdate_done hvram hppu) htiles).with_run_display
      (State.windowClear_clearWindow hmem) t.run t.display

/-- Settles O31: a step is a cycle with the dispatch ROM of R81. -/
theorem stepKeepsTheInvariant : Obligations.StepKeepsTheInvariant := fun _ _ h hs => h.cycle hs

end Sys2Proof.Machine
end

section
/-! The address decoder, the store of STA and the block copies of the boot load (20_memory.md R51, R56, R68;
70_reset_and_hazards.md R284). -/

namespace Sys2Proof.Machine

variable {s : State} {m : Memory} {prg chr bytes : List Byte}

/-- Settles O30: the decoder compares with the three bounds 0x2000, 0x2008 and 0x8000. -/
theorem everyAddressHasOneRegion : Obligations.EveryAddressHasOneRegion := by
  intro k
  rw [region_eq]
  split_ifs <;> simp only [true_iff, false_iff] <;> omega

/-- Settles O25: STA is one store, and PC is no byte of `M`. -/
theorem storeReachesOneByteOnly : Obligations.StoreReachesOneByteOnly := by
  intro addr s hm
  refine ⟨_, exec_staAbs addr s, State.wf_writeMem hm addr s.a, ?same, fun k hk => ?other⟩
  case same => exact (State.readMem_writeMem hm addr addr s.a).trans (if_pos rfl)
  case other => exact (State.readMem_writeMem hm addr k s.a).trans (if_neg hk)

/-! ## The block copies of the boot load -/

theorem loadProgram_of_le (h : bytes.length ≤ 0x8000) : loadProgram m bytes = .ok (m.setBytes 0x8000 bytes) :=
  if_neg (Nat.not_lt.2 h)

theorem loadProgram_of_lt (h : 0x8000 < bytes.length) : loadProgram m bytes = .error .prgTooLarge := if_pos h

/-- What a read gives after a program block within `PRG_MAX` was copied to `PRG_BASE` on. -/
theorem Memory.get_setBytes_prgBase (hm : m.wf = true) (h : bytes.length ≤ 0x8000) (k : Nat) :
    (m.setBytes 0x8000 bytes).get k =
      if 0x8000 ≤ k ∧ k < 0x8000 + bytes.length then bytes.getD (k - 0x8000) 0 else m.get k :=
  Memory.get_setBytes (size := 65536) hm (by omega)

/-- Settles O56: the length decides, and within the limit the copy does not reach the end of memory. -/
theorem loadProgramCopiesTheBlock : Obligations.LoadProgramCopiesTheBlock := fun _ _ hm =>
  ⟨fun h => ⟨_, loadProgram_of_le h, Memory.get_setBytes_prgBase hm h⟩, loadProgram_of_lt⟩

theorem State.bootBlocks_of_not_wf (h : ¬ blockPairWf prg chr = true) :
    s.bootBlocks prg chr = .refused .illegalBlockPair :=
  if_neg h

/-- A pair within the limits loads, and M and TILES alone change (R284). -/
theorem State.bootBlocks_of_wf (h : blockPairWf prg chr = true) :
    s.bootBlocks prg chr = .next { s with
      mem := s.mem.setBytes 0x8000 prg
      tiles := ingestFirst s.tiles chr (chr.length / 16) } := by
  rw [State.bootBlocks, if_pos h, State.loadBlocks_of_le (blockPairWf_iff.1 h).1, State.endBoot_ok]

/-- Settles O59: the limits are those of `blockPairWf`, and 8192 bytes are at most `TILE_COUNT` whole records. -/
theorem blockPairOutOfLimitsIsRefused : Obligations.BlockPairOutOfLimitsIsRefused := by
  intro s prg chr
  constructor
  · intro hout
    refine State.bootBlocks_of_not_wf fun hwf => ?_
    have hin := blockPairWf_iff.1 hwf
    omega
  · intro hprg hrec hchr
    refine ⟨_, State.bootBlocks_of_wf (blockPairWf_iff.2 ⟨hprg, hrec, hchr⟩), rfl, fun hm k => ?mem,
      fun ht n => ?tiles⟩
    case mem => exact Memory.get_setBytes_prgBase hm hprg k.toNat
    case tiles =>
      have hcount : chr.length / 16 ≤ 512 := by omega
      exact ingestFirst_get ht chr n _ hcount

end Sys2Proof.Machine
end

section
/-! The I/O window within a cycle: what is read from it before the rule, what the snapshot takes after it, and what the
clear leaves (20_memory.md R60 to R62, R64). -/

namespace Sys2Proof.Machine

variable {i : Instr} {s t u : State} {rom : Rom} {op : Byte} {pc0 : Word} {snap : Snapshot} {j : Fin Config.ioLen}

/-! ## The clear window at the start of an instruction -/

theorem State.windowClear.readMem_eq (hw : s.windowClear) {k : Word} (hk : region k = .ioWindow) : s.readMem k = 0 := by
  obtain ⟨i, rfl⟩ := (region_ioWindow_iff k).1 hk
  exact hw i

/-- A fetch of an absent opcode byte is fault entry in the state before the cycle (R82, R251). -/
theorem step_of_absent_byte (hrun : s.run = .running) (h : lookup opcodeTable (s.readMem s.pc) = none) :
    step s = .next (s.raise (.decodeError (s.readMem s.pc) s.pc)) := by
  have hf : s.fetch opcodeTable = .absent := by rw [State.fetch, dispatch, h]
  rw [step, State.cycle, State.cycleToRender_running opcodeTable hrun, hf, Phase.finish]

/-- The snapshot after a rule from a clear window holds at most the byte that a STA stored (R62). -/
theorem exec_snapshot (hm : s.mem.wf = true) (hw : s.windowClear) (h : exec i s = .next t) (j : Fin Config.ioLen) :
    t.snapshot[j] = if i = .staAbs (windowAddr j) then s.a else 0 := by
  have hread : t.snapshot[j] = t.readMem (windowAddr j) := State.snapshot_getElem j.val j.isLt
  rw [hread]
  by_cases hSta : ∃ addr, i = .staAbs addr
  · obtain ⟨addr, rfl⟩ := hSta
    simp only [exec_staAbs, Host.Outcome.next.injEq] at h
    rw [← h, State.advancePc_readMem, State.readMem_writeMem hm, hw j]
    simp only [Instr.staAbs.injEq, eq_comm]
  · rw [if_neg fun hi => hSta ⟨_, hi⟩, State.readMem_congr (exec_keeps_mem h (not_exists.1 hSta)), hw j]

/-- Settles O34: a window byte reads as 0x00 wherever the read comes from, and 0x00 is no opcode. -/
theorem windowIsClearAtInstructionStart : Obligations.WindowIsClearAtInstructionStart := by
  intro s hinv hrun
  have hw := hinv.windowClear_of_running hrun
  refine ⟨fun base hbase => ?load, fun hpc => ?fetch, fun i t j h => exec_snapshot hinv.mem_wf hw h j⟩
  case load =>
    refine ⟨_, exec_ldaAbsX base s, ?_⟩
    rw [hw.readMem_eq hbase]
    exact ⟨rfl, rfl, rfl⟩
  case fetch =>
    have hzero : s.readMem s.pc = 0 := hw.readMem_eq hpc
    have habsent : lookup opcodeTable (s.readMem s.pc) = none := by
      rw [hzero]
      rfl
    rw [step_of_absent_byte hrun habsent, hzero]
    rfl

/-! ## The clear at the end of a cycle -/

/-- A cycle that ends in a state without fault ran its instruction, completed its PPU update and cleared the window. -/
theorem State.cycle_unfaulted (h : s.cycle rom = .next t) (ht : t.unfaulted) :
    ∃ i u v, s.fetch rom = .instr i ∧ exec i s = .next u ∧
      u.ppuUpdate (s.readMem s.pc) s.pc u.snapshot = .done v ∧ v.clearWindow.displayHandOff = .next t := by
  obtain ⟨-, ⟨r, -, rfl⟩ | ⟨_, _, r, _, -, -, -, rfl⟩ | hdone⟩ := State.cycle_next_cases h
  · exact absurd rfl (ht r)
  · exact absurd rfl (ht r)
  · exact hdone

theorem State.ppuUpdate_done_mem (h : s.ppuUpdate op pc0 snap = .done t) : t.mem = s.mem := by
  rw [State.ppuUpdate_done_frame h]

theorem State.displayHandOff_mem (h : s.displayHandOff = .next t) : t.mem = s.mem := by
  rw [State.displayHandOff_frame h]

/-- Settles O35: after the rule, a cycle without fault changes `M` by the clear alone. -/
theorem cycleClearsTheWindowAndNothingElse : Obligations.CycleClearsTheWindowAndNothingElse := by
  intro s t u i hm hfetch hexec hstep hu k
  obtain ⟨i', t', v, hfetch', hexec', hppu, hanswer⟩ := State.cycle_unfaulted hstep hu
  cases hfetch.symm.trans hfetch'
  cases hexec.symm.trans hexec'
  have hmem : v.mem = t.mem := State.ppuUpdate_done_mem hppu
  have hv : v.mem.wf = true := hmem ▸ exec_mem_wf hexec hm
  rw [State.readMem_congr (State.displayHandOff_mem hanswer), State.readMem_clearWindow hv, State.readMem_congr hmem]

/-- The clear undoes a store to a clear window. -/
theorem State.readMem_clearWindow_of_window_store (hm : s.mem.wf = true) (hw : s.windowClear)
    (ht : t.mem = (s.writeMem (windowAddr j) s.a).mem) (k : Word) : t.clearWindow.readMem k = s.readMem k := by
  rw [State.readMem_clearWindow (ht ▸ State.wf_writeMem hm _ _)]
  by_cases hk : region k = .ioWindow
  · rw [if_pos hk, hw.readMem_eq hk]
  · have hne : k ≠ windowAddr j := fun he => hk ((region_ioWindow_iff k).2 ⟨j, he⟩)
    rw [if_neg hk, State.readMem_congr ht, State.readMem_writeMem hm, if_neg hne]

end Sys2Proof.Machine
end

section
/-! A whole cycle of STA to the I/O window (20_memory.md R59 to R63; 50_ppu.md R201 to R205, R222). -/

namespace Sys2Proof.Machine

variable {i : Instr} {s t u v : State} {op a d : Byte} {pc0 w : Word} {snap : Snapshot} {m : Memory}
  {j : Fin Config.ioLen}

/-! ## The PPU update when at most one port holds a byte (R201) -/

theorem State.ppuUpdate_of_no_byte (ha : snap[Config.portAddr] = 0) (hd : snap[Config.portData] = 0) :
    s.ppuUpdate op pc0 snap = .done s := by
  rw [State.ppuUpdate_eq, if_pos hd, if_pos ha]

theorem State.ppuUpdate_of_address_byte (ha : snap[Config.portAddr] = a) (hd : snap[Config.portData] = 0)
    (h : a ≠ 0) :
    s.ppuUpdate op pc0 snap = .done (s.addressPort a) := by
  subst ha
  rw [State.ppuUpdate_eq, if_pos hd, if_neg h]

theorem State.ppuUpdate_of_data_byte (ha : snap[Config.portAddr] = 0) (hd : snap[Config.portData] = d) (h : d ≠ 0) :
    s.ppuUpdate op pc0 snap = s.dataPort op pc0 d := by
  subst hd
  rw [State.ppuUpdate_eq, if_neg h, if_pos ha]

/-- A 16-bit operand is its high byte followed by its low byte (R86). -/
theorem append_eq_absOperand (b1 b2 : Byte) : BitVec.append b2 b1 = absOperand b1 b2 := by
  refine BitVec.eq_of_getLsbD_eq fun k _ => ?_
  rw [absOperand_getLsbD]
  exact BitVec.getLsbD_append

/-- The shift of VPTR drops its high byte, so VPTR becomes its old low byte followed by the byte written (R202). -/
theorem State.addressPort_eq_setVptr_append (s : State) (b : Byte) :
    s.addressPort b = s.setVptr (BitVec.append (s.vptr.setWidth 8) b) := by
  have hshift : s.vptr <<< 8 = (s.vptr.setWidth 8).setWidth 16 <<< 8 := by
    apply BitVec.eq_of_toNat_eq
    simp only [BitVec.toNat_shiftLeft, BitVec.toNat_setWidth, Nat.shiftLeft_eq]
    omega
  rw [append_eq_absOperand, absOperand, ← hshift, State.addressPort]

/-! ## The end of a cycle whose host answers -/

/-- Where the host answers, `Closed` ends the run and `Ready` does not, and the answer is consumed (R222). -/
theorem State.displayHandOff_of_hostAnswers (h : s.hostAnswers) :
    s.displayHandOff = .next { s with
      run := if s.nextAnswer = .closed then .terminated else s.run
      display := s.display.tail } := by
  cases ha : s.nextAnswer with
  | ready => exact State.displayHandOff_next.2 (.inl ⟨ha, rfl⟩)
  | closed => exact State.displayHandOff_next.2 (.inr ⟨ha, rfl⟩)
  | silent => exact absurd ha h

/-- A cycle whose PPU update completes ends with the clear and the display answer (R100). -/
theorem step_of_ppuUpdate_done (hrun : s.run = .running) (hfetch : s.fetch opcodeTable = .instr i)
    (hexec : exec i s = .next u) (hppu : u.ppuUpdate (s.readMem s.pc) s.pc u.snapshot = .done v) :
    step s = v.clearWindow.displayHandOff := by
  have hupdate : u.updatePpu (s.readMem s.pc) s.pc = .done v.clearWindow := State.updatePpu_done.2 ⟨v, hppu, rfl⟩
  rw [step, State.cycle, State.cycleToRender_running opcodeTable hrun, hfetch]
  simp only [hexec, afterRule, hupdate, Phase.finish]

/-- A cycle of STA to the window whose PPU update completes changes VRAM and VPTR as the update does, PC, and what the
display answer changes; the clear takes the stored byte away again. -/
theorem step_staWindow (hinv : s.Inv) (hrun : s.run = .running)
    (hfetch : s.fetch opcodeTable = .instr (.staAbs (windowAddr j))) (hanswers : s.hostAnswers)
    (hexec : exec (.staAbs (windowAddr j)) s = .next u)
    (hppu : u.ppuUpdate (s.readMem s.pc) s.pc u.snapshot = .done ((u.setVram m).setVptr w)) :
    ∃ t, step s = .next t ∧ t.unfaulted ∧
      t = { s with
        mem := t.mem
        vram := m
        vptr := w
        pc := s.pc + 3
        run := if s.nextAnswer = .closed then .terminated else .running
        display := s.display.tail } ∧
      ∀ k, t.readMem k = s.readMem k := by
  have hstep := step_of_ppuUpdate_done hrun hfetch hexec hppu
  simp only [exec_staAbs, Host.Outcome.next.injEq] at hexec
  subst hexec
  refine ⟨_, hstep.trans (State.displayHandOff_of_hostAnswers ?answers), fun r => ?unfaulted, ?frame, fun k => ?mem⟩
  case answers => exact hanswers
  case unfaulted =>
    show (if s.nextAnswer = .closed then RunState.terminated else s.run) ≠ _
    rw [hrun]
    split <;> simp
  case frame =>
    rw [← hrun]
    rfl
  case mem =>
    exact State.readMem_clearWindow_of_window_store (t := ((_ : State).setVram m).setVptr w) hinv.mem_wf
      (hinv.windowClear_of_running hrun) rfl k

/-- The snapshot after STA to window offset `j` holds A there and 0x00 elsewhere (R62). -/
theorem snapshot_staWindow (hinv : s.Inv) (hrun : s.run = .running)
    (hexec : exec (.staAbs (windowAddr j)) s = .next u) (k : Fin Config.ioLen) :
    u.snapshot[k] = if j = k then s.a else 0 := by
  rw [exec_snapshot hinv.mem_wf (hinv.windowClear_of_running hrun) hexec k]
  simp only [Instr.staAbs.injEq, windowAddr_inj]

/-- Settles O41: offset 6 alone holds A, so the update is one write to the address port. -/
theorem storeToTheAddressPortMovesVptr : Obligations.StoreToTheAddressPortMovesVptr := by
  intro s hinv hrun hfetch ha hanswers
  obtain ⟨u, hexec⟩ := exec_completes (.staAbs (windowAddr Config.portAddr)) s
  have hsnap := snapshot_staWindow hinv hrun hexec
  have hppu := State.ppuUpdate_of_address_byte (s := u) (op := s.readMem s.pc) (pc0 := s.pc)
    ((hsnap Config.portAddr).trans (if_pos rfl)) ((hsnap Config.portData).trans (if_neg (by decide))) ha
  rw [State.addressPort_eq_setVptr_append] at hppu
  obtain ⟨t, hstep, hunf, ht, hmem⟩ := step_staWindow (j := Config.portAddr) hinv hrun hfetch hanswers hexec hppu
  rw [exec_vram hexec, exec_vptr hexec] at ht
  exact ⟨t, hstep, hunf, ht, hmem⟩

/-- Settles O42: offset 7 alone holds A, so the update is one write to the data port. -/
theorem storeToTheDataPortWritesVram : Obligations.StoreToTheDataPortWritesVram := by
  intro s hinv hrun hfetch ha hanswers hvptr
  obtain ⟨u, hexec⟩ := exec_completes (.staAbs (windowAddr Config.portData)) s
  have hsnap := snapshot_staWindow hinv hrun hexec
  have hdata := State.ppuUpdate_of_data_byte (s := u) (op := s.readMem s.pc) (pc0 := s.pc)
    ((hsnap Config.portAddr).trans (if_neg (by decide))) ((hsnap Config.portData).trans (if_pos rfl)) ha
  have hppu := hdata.trans (State.dataPort_done.2 ⟨exec_vptr hexec ▸ hvptr, rfl⟩)
  obtain ⟨t, hstep, hunf, ht, hmem⟩ := step_staWindow (j := Config.portData) hinv hrun hfetch hanswers hexec hppu
  rw [exec_vram hexec, exec_vptr hexec] at ht
  refine ⟨t, hstep, hunf, by rw [ht], fun k => ?_, by rw [ht], hmem⟩
  rw [ht]
  exact Memory.get_set hinv.vram_wf

/-- Settles O44: both port bytes of the snapshot are 0x00, so the update does nothing. -/
theorem zeroByteOrOtherOffsetIsNoPortWrite : Obligations.ZeroByteOrOtherOffsetIsNoPortWrite := by
  intro s addr hinv hrun hfetch hregion hquiet hanswers
  obtain ⟨j, rfl⟩ := (region_ioWindow_iff addr).1 hregion
  obtain ⟨u, hexec⟩ := exec_completes (.staAbs (windowAddr j)) s
  have hzero : ∀ k : Fin Config.ioLen, 6 ≤ k.val → u.snapshot[k] = 0 := by
    intro k hk
    rw [snapshot_staWindow hinv hrun hexec k]
    rcases hquiet with ha | hlow
    · rw [ha, ite_self]
    · rw [windowAddr_toNat] at hlow
      exact if_neg fun hjk => by omega
  have hppu : u.ppuUpdate (s.readMem s.pc) s.pc u.snapshot = .done ((u.setVram u.vram).setVptr u.vptr) :=
    State.ppuUpdate_of_no_byte (hzero Config.portAddr (by decide)) (hzero Config.portData (by decide))
  obtain ⟨t, hstep, hunf, ht, hmem⟩ := step_staWindow hinv hrun hfetch hanswers hexec hppu
  rw [exec_vram hexec, exec_vptr hexec] at ht
  exact ⟨t, hstep, hunf, by rw [ht], by rw [ht], hmem⟩

end Sys2Proof.Machine
end

section
/-! Encoding and dispatch (30_encoding.md R80 to R93): decoding is inverse to encoding on both sides, a legal dispatch ROM
has one row per byte, the pairs with a handler are the eleven of R81, and a branch displacement is one that reaches its
target. -/

namespace Sys2Proof

variable {rom : Rom} {row : RomRow} {mn : Mnemonic} {mode : Mode} {i : Instr} {b0 b1 b2 off : Byte} {bs rest : List Byte}
  {addr target : Word}

/-! ## Lookup and legality of a ROM (R80, R81, R93) -/

theorem lookup_cons (row : RomRow) (rom : Rom) (op : Byte) :
    lookup (row :: rom) op = if row.byte = op then some (row.mnemonic, row.mode) else lookup rom op := rfl

theorem Rom.wf_cons : Rom.wf (row :: rom) = true ↔ (∀ r ∈ rom, r.byte ≠ row.byte) ∧ rom.wf = true := by
  simp only [Rom.wf, Bool.and_eq_true, List.all_eq_true, decide_eq_true_eq]

theorem Rom.wf_iff_nodup (rom : Rom) : rom.wf = true ↔ (rom.map RomRow.byte).Nodup := by
  induction rom with
  | nil => exact ⟨fun _ => List.nodup_nil, fun _ => rfl⟩
  | cons row rows ih => rw [Rom.wf_cons, List.map_cons, List.nodup_cons, List.mem_map, ih]; simp

/-- In a legal ROM no earlier row hides a row from its byte. -/
theorem lookup_of_mem_of_wf (hwf : rom.wf = true) (hmem : row ∈ rom) :
    lookup rom row.byte = some (row.mnemonic, row.mode) := by
  induction rom with
  | nil => cases hmem
  | cons head rows ih =>
    obtain ⟨hhead, hrows⟩ := Rom.wf_cons.1 hwf
    rcases List.mem_cons.1 hmem with rfl | hmem
    · exact if_pos rfl
    · rw [lookup_cons, if_neg (hhead row hmem).symm, ih hrows hmem]

/-! ## The two levels of decode (R92) -/

/-- A row of R81 has a handler, and what it makes of the operand bytes is encoded by the row's byte and the operand bytes
its mode has (R85, R86). -/
theorem handler_of_mem_opcodeTable (hmem : row ∈ opcodeTable) (b1 b2 : Byte) :
    ∃ i, handler row.mnemonic row.mode b1 b2 = some i ∧ encode i = [row.byte, b1, b2].take row.mode.length := by
  simp only [opcodeTable, List.mem_cons, List.not_mem_nil, or_false] at hmem
  rcases hmem with rfl | rfl | rfl | rfl | rfl | rfl | rfl | rfl | rfl | rfl | rfl <;>
    exact ⟨_, rfl, by simp [encode, Mode.length]⟩

/-- `HANDLERS` is the eleven pairs of R81 (R92). -/
theorem handler_isSome_iff :
    (handler mn mode b1 b2).isSome = true ↔ (mn, mode) ∈ opcodeTable.map fun row => (row.mnemonic, row.mode) := by
  constructor
  · unfold handler
    split <;> simp [opcodeTable]
  · intro hmem
    obtain ⟨row, hrow, hpair⟩ := List.mem_map.1 hmem
    cases hpair
    obtain ⟨i, hi, -⟩ := handler_of_mem_opcodeTable hrow b1 b2
    rw [hi, Option.isSome_some]

theorem dispatch_absent : dispatch rom b0 b1 b2 = .absent ↔ lookup rom b0 = none := by
  unfold dispatch
  cases lookup rom b0 with
  | none => simp
  | some p => cases hh : handler p.1 p.2 b1 b2 <;> simp [hh]

theorem dispatch_noHandler :
    dispatch rom b0 b1 b2 = .noHandler ↔
      ∃ mn mode, lookup rom b0 = some (mn, mode) ∧ handler mn mode b1 b2 = none := by
  unfold dispatch
  cases lookup rom b0 with
  | none => simp
  | some p =>
    obtain ⟨mn, mode⟩ := p
    cases hh : handler mn mode b1 b2 <;> simp [hh]

/-- With the ROM of R81 every byte is absent or selects a pair with a handler. -/
theorem dispatch_opcodeTable_ne_noHandler (b0 b1 b2 : Byte) : dispatch opcodeTable b0 b1 b2 ≠ .noHandler := by
  intro h
  obtain ⟨mn, mode, hlookup, hnone⟩ := dispatch_noHandler.1 h
  obtain ⟨i, hsome, -⟩ := handler_of_mem_opcodeTable (lookup_some hlookup) b1 b2
  cases hnone.symm.trans hsome

/-! ## Decode and encode are inverse to each other (R80, R85, R88) -/

/-- What a decode that succeeds has done: looked up the opcode byte, found `len(mode)` bytes, run the handler on the operand
bytes and left the bytes after them. -/
theorem decodeWith_cons_ok :
    decodeWith rom (b0 :: bs) = .ok (i, rest) ↔
      ∃ mn mode, lookup rom b0 = some (mn, mode) ∧ mode.length ≤ bs.length + 1 ∧
        handler mn mode (bs.getD 0 0) (bs.getD 1 0) = some i ∧ rest = bs.drop (mode.length - 1) := by
  rw [decodeWith, dispatch]
  generalize bs.getD 0 0 = b1, bs.getD 1 0 = b2
  cases hl : lookup rom b0 with
  | none => simp
  | some p =>
    obtain ⟨mn, mode⟩ := p
    by_cases hlen : bs.length + 1 < mode.length
    · simp [hlen]
    · cases hh : handler mn mode b1 b2 <;> simp [hlen, hh, Nat.not_lt.1 hlen, eq_comm]

/-- Decoding the encoding of an instruction, whatever bytes follow it, gives the instruction and those bytes. -/
theorem decode_encode_append (i : Instr) (rest : List Byte) : decode (encode i ++ rest) = .ok (i, rest) := by
  cases i with
  | _ => exact decodeWith_cons_ok.2 ⟨_, _, rfl, by simp [Mode.length], by simp [handler], rfl⟩

/-- No instruction is longer than the three bytes of a fetch (R84). -/
theorem Mode.length_le_three (mode : Mode) : mode.length ≤ 3 := by
  cases mode <;> decide

/-- A list of bytes, cut after at most three, is its first byte and the two operand bytes cut there: the 0x00 that stands for
a missing operand byte is cut off again. -/
theorem take_operands {n : Nat} (hn : n ≤ 3) (hlen : n ≤ bs.length + 1) :
    [b0, bs.getD 0 0, bs.getD 1 0].take n = (b0 :: bs).take n := by
  refine List.ext_getElem (by simp; omega) fun k hk _ => ?_
  simp only [List.length_take, List.length_cons, List.length_nil] at hk
  obtain rfl | rfl | rfl : k = 0 ∨ k = 1 ∨ k = 2 := by omega
  · simp
  · simp [show 0 < bs.length by omega]
  · simp [show 1 < bs.length by omega]

/-- Whatever decodes is the encoding of what it decodes to, followed by the bytes that are left. -/
theorem encode_append_of_decode (h : decode bs = .ok (i, rest)) : encode i ++ rest = bs := by
  cases bs with
  | nil => cases h
  | cons b0 bs =>
    obtain ⟨mn, mode, hlookup, hlen, hhandler, rfl⟩ := decodeWith_cons_ok.1 h
    obtain ⟨j, hj, hencode⟩ := handler_of_mem_opcodeTable (lookup_some hlookup) (bs.getD 0 0) (bs.getD 1 0)
    cases hhandler.symm.trans hj
    have hrest : bs.drop (mode.length - 1) = (b0 :: bs).drop mode.length := by
      cases mode <;> rfl
    rw [hencode, take_operands mode.length_le_three hlen, hrest, List.take_append_drop]

/-! ## The displacement of a branch (R90) -/

theorem setWidth_sext16 (off : Byte) : (sext16 off).setWidth 8 = off := by
  refine BitVec.eq_of_getLsbD_eq fun k hk => ?_
  simp [sext16, BitVec.getLsbD_signExtend, hk]
  omega

/-- A displacement is one the assembler computes exactly when it leads from the end of the BNE to the target. -/
theorem branchOffset_eq_some : branchOffset addr target = some off ↔ addr + 2 + sext16 off = target := by
  have hdistance : addr + 2 + sext16 off = target ↔ target - (addr + 2) = sext16 off := by
    rw [sub_eq_iff_eq_add', eq_comm]
  rw [hdistance, branchOffset]
  split_ifs with hd
  · rw [Option.some.injEq]
    exact ⟨fun h => h ▸ hd.symm, fun h => by rw [h, setWidth_sext16]⟩
  · refine iff_of_false id fun h => hd ?_
    rw [h, setWidth_sext16]

/-- The words that are the sign extension of their low byte are those of -128 to +127. -/
theorem sext16_setWidth_eq_iff (d : Word) : sext16 (d.setWidth 8) = d ↔ -128 ≤ d.toInt ∧ d.toInt ≤ 127 := by
  have hd := d.isLt
  rw [← BitVec.toInt_inj, sext16, BitVec.toInt_signExtend_of_le (by decide), BitVec.toInt_setWidth,
    BitVec.toInt_eq_toNat_bmod, Int.bmod_def, Int.bmod_def]
  split_ifs <;> omega

theorem branchOffset_isSome_iff (addr target : Word) :
    (branchOffset addr target).isSome = true ↔
      -128 ≤ (target - (addr + 2)).toInt ∧ (target - (addr + 2)).toInt ≤ 127 := by
  rw [← sext16_setWidth_eq_iff, branchOffset]
  split_ifs with hd
  · exact iff_of_true rfl hd
  · exact iff_of_false Bool.false_ne_true hd

/-! ## The statements -/

/-- Settles O3: the handler of each row puts the operand together again from its bytes. -/
theorem decodeInvertsEncode : Obligations.DecodeInvertsEncode := fun i rest _ => decode_encode_append i rest

/-- Settles O4: every row's handler keeps the opcode byte and each operand byte. -/
theorem encodeInvertsDecode : Obligations.EncodeInvertsDecode := fun _ _ _ => encode_append_of_decode

/-- Settles O1: the lookup compares the byte with the rows one by one. -/
theorem dispatchRomHoldsTheElevenRows : Obligations.DispatchRomHoldsTheElevenRows := by
  refine ⟨fun op => ?_, rfl, rfl, rfl, rfl, rfl⟩
  simp only [opcodeTable, lookup_cons, eq_comm (b := op), lookup]

/-- Settles O5: a word that is an encoding decodes by the round trip; 0x9A has no row, and a JMP has three bytes. -/
theorem writtenWordsDecode : Obligations.WrittenWordsDecode :=
  ⟨decode_encode_append (.jmpAbs 0x1234) [], decode_encode_append (.bneRel 0xFC) [], decode_encode_append .sei [],
    decode_encode_append .dey [], decode_encode_append .tsx [], decode_encode_append .inx [],
    decode_encode_append (.ldyImm 0x03) [], decode_encode_append (.ldxImm 0xFF) [],
    decode_encode_append (.ldaImm 0x40) [], decode_encode_append (.ldaAbsX 0x0300) [],
    decode_encode_append (.staAbs 0x2006) [], rfl, rfl⟩

end Sys2Proof
end

section
/-! The cycle around the instruction (30_encoding.md R92, R95, R100): what it does once the fetch has an answer, that it ends
when the host answers, and where it faults. -/

namespace Sys2Proof.Machine

variable {i : Instr} {s t u : State} {rom : Rom} {op : Byte} {pc0 : Word} {snap : Snapshot} {r : FaultRecord}

/-! ## A running cycle, by what the fetch gives -/

/-- An absent byte is fault entry in the state before the cycle (R251). -/
theorem State.cycle_of_absent (hrun : s.run = .running) (hfetch : s.fetch rom = .absent) :
    s.cycle rom = .next (s.raise (.decodeError (s.readMem s.pc) s.pc)) := by
  rw [State.cycle, State.cycleToRender_running rom hrun, hfetch, Phase.finish]

/-- A pair without handler is fault entry in the state before the cycle (R252). -/
theorem State.cycle_of_noHandler (hrun : s.run = .running) (hfetch : s.fetch rom = .noHandler) :
    s.cycle rom = .next (s.raise (.unimplementedInstruction (s.readMem s.pc) s.pc)) := by
  rw [State.cycle, State.cycleToRender_running rom hrun, hfetch, Phase.finish]

/-- An instruction runs its rule, and the PPU part of the cycle follows (R100). -/
theorem State.cycle_of_instr (hrun : s.run = .running) (hfetch : s.fetch rom = .instr i) (hexec : exec i s = .next u) :
    s.cycle rom = (u.updatePpu (s.readMem s.pc) s.pc).finish := by
  rw [State.cycle, State.cycleToRender_running rom hrun, hfetch]
  simp only [hexec, afterRule]

/-- An update that raises is fault entry in the state it left (R253, R257). -/
theorem State.cycle_of_raised (hrun : s.run = .running) (hfetch : s.fetch rom = .instr i) (hexec : exec i s = .next u)
    (hppu : u.ppuUpdate (s.readMem s.pc) s.pc u.snapshot = .raised r t) : s.cycle rom = .next (t.raise r) := by
  rw [State.cycle_of_instr hrun hfetch hexec, State.updatePpu_raised.2 hppu, Phase.finish]

/-- The bytes at PC decode to the instruction that the fetch answers (R85, R92). -/
theorem State.fetch_of_decode {rest : List Byte}
    (h : decode [s.readMem s.pc, s.readMem (s.pc + 1), s.readMem (s.pc + 2)] = .ok (i, rest)) :
    s.fetch opcodeTable = .instr i := by
  obtain ⟨mn, mode, hlookup, -, hhandler, -⟩ := decodeWith_cons_ok.1 h
  exact dispatch_instr.2 ⟨mn, mode, hlookup, hhandler⟩

/-! ## Where a cycle faults (R102, R256) -/

/-- Where the two ports do not both hold a byte, an update that raises does so at the VPTR it started from and has changed
nothing (R201, R203, R253). -/
theorem State.ppuUpdate_raised_of_one_port (h : s.ppuUpdate op pc0 snap = .raised r t)
    (hone : snap[Config.portData] ≠ 0 → snap[Config.portAddr] = 0) :
    0x4000 ≤ s.vptr.toNat ∧ r = .vramRangeError op pc0 s.vptr ∧ t = s := by
  by_cases hd : snap[Config.portData] = 0
  · rw [State.ppuUpdate_eq, if_pos hd] at h
    cases h
  · rw [State.ppuUpdate_of_data_byte (hone hd) rfl hd] at h
    exact State.dataPort_raised.1 h

/-- A rule that leaves a byte at the data port is STA to it, and has left none at the address port (R62). -/
theorem exec_snapshot_one_port (hinv : s.Inv) (hrun : s.run = .running) (hexec : exec i s = .next u)
    (hd : u.snapshot[Config.portData] ≠ 0) : u.snapshot[Config.portAddr] = 0 := by
  have hsnap := exec_snapshot hinv.mem_wf (hinv.windowClear_of_running hrun) hexec
  have hSta : i = .staAbs (windowAddr Config.portData) := by
    by_contra hne
    exact hd ((hsnap Config.portData).trans (if_neg hne))
  rw [hsnap Config.portAddr, hSta]
  exact if_neg (by decide)

/-- The display answer of a running block stops it with no record (R222). -/
theorem State.displayHandOff_unfaulted (hrun : s.run = .running) (h : s.displayHandOff = .next t) : t.unfaulted := by
  intro r
  rcases State.displayHandOff_next.1 h with ⟨-, rfl⟩ | ⟨-, rfl⟩ <;> simp [hrun]

/-! ## The statements -/

/-- Settles O6: both conditions say that a row's byte is not among those of the rows after it. -/
theorem legalRomHasOneEntryPerByte : Obligations.LegalRomHasOneEntryPerByte := by
  refine ⟨Rom.wf_iff_nodup, fun _ hwf _ hmem => lookup_of_mem_of_wf hwf hmem, fun rom draw display buf hwf => ?refused,
    opcodeTable_wf⟩
  case refused => exact if_neg (by simp [hwf])

/-- Settles O7: a handler exists for the pairs of the eleven rows alone, and without one the cycle ends at decode. -/
theorem pairWithoutHandlerIsUnimplemented : Obligations.PairWithoutHandlerIsUnimplemented := by
  refine ⟨fun mn mode b1 b2 => handler_isSome_iff, fun rom s mn mode hrun hlookup hpair => ?raises,
    dispatch_opcodeTable_ne_noHandler⟩
  case raises =>
    have hnone : handler mn mode (s.readMem (s.pc + 1)) (s.readMem (s.pc + 2)) = none := by
      rwa [← handler_isSome_iff, Option.not_isSome_iff_eq_none] at hpair
    exact State.cycle_of_noHandler hrun (dispatch_noHandler.2 ⟨mn, mode, hlookup, hnone⟩)

/-- Settles O8: BNE adds to the address of its end the displacement that leads from there to the target. -/
theorem assembledBranchReachesItsTarget : Obligations.AssembledBranchReachesItsTarget := by
  refine ⟨fun addr target off s hoff hz => ⟨_, exec_bneRel off _, ?_⟩, branchOffset_isSome_iff⟩
  simpa [hz, relativeOffset] using branchOffset_eq_some.1 hoff

/-- Settles O12: fault entry is a next state, and so is the end of a cycle whose host answers. -/
theorem runningCycleEndsWhenTheHostAnswers : Obligations.RunningCycleEndsWhenTheHostAnswers := by
  intro s hrun hanswers
  cases hfetch : s.fetch opcodeTable with
  | absent => exact ⟨_, State.cycle_of_absent hrun hfetch⟩
  | noHandler => exact ⟨_, State.cycle_of_noHandler hrun hfetch⟩
  | instr i =>
    obtain ⟨u, hexec⟩ := exec_completes i s
    rcases u.ppuUpdate_cases (s.readMem s.pc) s.pc u.snapshot with ⟨m, w, hdone⟩ | ⟨w, -, hraised⟩
    · have hu : ((u.setVram m).setVptr w).clearWindow.hostAnswers := by
        unfold State.hostAnswers State.nextAnswer at hanswers ⊢
        simpa [exec_display hexec] using hanswers
      exact ⟨_, (step_of_ppuUpdate_done hrun hfetch hexec hdone).trans (State.displayHandOff_of_hostAnswers hu)⟩
    · exact ⟨_, State.cycle_of_raised hrun hfetch hexec hraised⟩

/-- Settles O54: the window is clear before the rule, so the update that raises starts at the VPTR of before the cycle. -/
theorem faultsComeFromDecodeOrThePpuUpdate : Obligations.FaultsComeFromDecodeOrThePpuUpdate := by
  intro s t r hinv hstep hstopped
  obtain ⟨hrun, ⟨r', ⟨hfetch, rfl⟩ | ⟨hfetch, -⟩, rfl⟩ | ⟨i, u, r', v, hfetch, hexec, hppu, rfl⟩ |
    ⟨i, u, v, -, hexec, hppu, hanswer⟩⟩ := State.cycle_next_cases hstep
  · cases hstopped
    exact .inl ⟨dispatch_absent.1 hfetch, rfl, rfl⟩
  · exact absurd hfetch (dispatch_opcodeTable_ne_noHandler _ _ _)
  · cases hstopped
    obtain ⟨hvptr, hr, rfl⟩ := State.ppuUpdate_raised_of_one_port hppu (exec_snapshot_one_port hinv hrun hexec)
    rw [exec_vptr hexec] at hvptr hr
    exact .inr ⟨i, _, hfetch, hexec, hvptr, hr, rfl⟩
  · have hv : v.clearWindow.run = .running := by
      rw [State.clearWindow_run, State.ppuUpdate_done_frame hppu]
      exact (exec_run (t := u) hexec).trans hrun
    exact absurd hstopped (State.displayHandOff_unfaulted hv hanswer r)

/-- Settles O9: the fetch agrees with `decode`, and the end of the cycle is read off the outcome of the PPU update. -/
theorem stepRunsTheDecodedInstruction : Obligations.StepRunsTheDecodedInstruction := by
  intro s i rest hrun hdecode
  have hfetch := State.fetch_of_decode hdecode
  obtain ⟨u, hexec⟩ := exec_completes i s
  refine ⟨hfetch, (State.cycle_of_instr hrun hfetch hexec).trans ?_⟩
  rw [hexec, State.updatePpu]
  cases hppu : u.ppuUpdate (s.readMem s.pc) s.pc u.snapshot with
  | _ => simp only [hppu, Phase.finish]

/-- Settles O13: `NZ` is one write of P. -/
theorem nzWritesExactlyTwoFlags : Obligations.NzWritesExactlyTwoFlags := fun _ _ => rfl

end Sys2Proof.Machine
end

section
/-! The instruction statements (30_encoding.md R92; 40_control_transfer.md R120, R122): what the opcode byte at PC is fetched
as, and the whole next state of the rule. -/

namespace Sys2Proof.Machine

variable {i : Instr} {s : State} {rom : Rom} {op : Byte} {mn : Mnemonic} {mode : Mode}

/-- The opcode byte at PC selects a row, and the fetch is what the row's handler makes of the two bytes after it (R92). -/
theorem State.fetch_of_opcode (hop : s.readMem s.pc = op) (hlookup : lookup rom op = some (mn, mode))
    (hhandler : handler mn mode (s.readMem (s.pc + 1)) (s.readMem (s.pc + 2)) = some i) : s.fetch rom = .instr i :=
  dispatch_instr.2 ⟨mn, mode, by rw [hop, hlookup], hhandler⟩

/-- Settles O14: the handler of 0x4C assembles the operand low byte first, and the rule is one write of PC. -/
theorem jmpAbsoluteSetsPc : Obligations.JmpAbsoluteSetsPc := by
  refine fun s => ⟨fun hop => ?fetch, fun target => exec_jmpAbs target s⟩
  case fetch =>
    rw [append_eq_absOperand]
    exact State.fetch_of_opcode hop rfl rfl

/-- Settles O15: the handler of 0xD0 takes the byte after it, and the rule is one write of PC, by the value of `P.Z`. -/
theorem bneRelativeBranchesWhenZIsFalse : Obligations.BneRelativeBranchesWhenZIsFalse := by
  refine fun s => ⟨fun hop => State.fetch_of_opcode hop rfl rfl, fun off => (exec_bneRel off s).trans ?_⟩
  cases s.p.z with
  | false => rfl
  | true => rfl

end Sys2Proof.Machine
end

section
/-! SEI and the flag it writes (41_status_flag.md R140; 60_exceptions.md R260): its whole next state, and that a cycle from a
state with another value of `P.I` does the same but for `P.I`. -/

namespace Sys2Proof.Machine

variable {i : Instr} {s t : State}

/-- Settles O16: the handler of 0x78 takes no operand, and the rule is one write of `P.I` and one of PC. -/
theorem seiSetsInterruptDisable : Obligations.SeiSetsInterruptDisable := fun s =>
  ⟨fun hop => State.fetch_of_opcode hop rfl rfl, exec_sei s⟩

/-! ## The same state with another value of `P.I` -/

/-- `P.I <- b`. -/
def State.setI (s : State) (b : Bool) : State := s.setP { s.p with i := b }

/-- A second write of `P.I` hides the first, so writing back the old value restores the state. -/
theorem State.setI_setI_self (s : State) (b : Bool) : (s.setI b).setI s.p.i = s := rfl

/-- A phase with its state changed by `g`. -/
def Phase.map (g : State → State) : Phase → Phase
  | .done s => .done (g s)
  | .raised r s => .raised r (g s)
  | .stuck f => .stuck f
  | .refused r => .refused r

/-! ## No part of a cycle reads `P.I` -/

/-- SEI leaves `P.I` true whatever it was, and every other rule leaves the value it found (R29, R140). -/
theorem exec_setI (h : exec i s = .next t) (b : Bool) : ∃ c, exec i (s.setI b) = .next (t.setI c) := by
  cases i with
  | sei => cases h; exact ⟨true, rfl⟩
  | bneRel off =>
    rw [exec_bneRel] at h
    cases h
    exact ⟨b, exec_bneRel off _⟩
  | _ => cases h; exact ⟨b, rfl⟩

/-- The data port reads VPTR and VRAM alone (R203). -/
theorem State.dataPort_setI (s : State) (b : Bool) (op : Byte) (pc0 : Word) (v : Byte) :
    (s.setI b).dataPort op pc0 v = (s.dataPort op pc0 v).map (·.setI b) := by
  rcases s.dataPort_cases op pc0 v with ⟨hlt, h⟩ | ⟨hge, h⟩
  · rw [h]
    exact State.dataPort_done.2 ⟨hlt, rfl⟩
  · rw [h]
    exact State.dataPort_raised.2 ⟨hge, rfl, rfl⟩

/-- The PPU update reads the snapshot, VPTR and VRAM alone (R201). -/
theorem State.ppuUpdate_setI (s : State) (b : Bool) (op : Byte) (pc0 : Word) (snap : Snapshot) :
    (s.setI b).ppuUpdate op pc0 snap = (s.ppuUpdate op pc0 snap).map (·.setI b) := by
  have haddr : (if snap[Config.portAddr] = 0 then s.setI b else (s.setI b).addressPort snap[Config.portAddr]) =
      (if snap[Config.portAddr] = 0 then s else s.addressPort snap[Config.portAddr]).setI b :=
    (apply_ite (State.setI · b) _ s (s.addressPort snap[Config.portAddr])).symm
  rw [State.ppuUpdate_eq, State.ppuUpdate_eq, haddr]
  by_cases hd : snap[Config.portData] = 0
  · rw [if_pos hd, if_pos hd, Phase.map]
  · rw [if_neg hd, if_neg hd, State.dataPort_setI]

/-- The display answer comes from the host (R222). -/
theorem State.displayHandOff_setI (h : s.displayHandOff = .next t) (b : Bool) :
    (s.setI b).displayHandOff = .next (t.setI b) := by
  rw [State.displayHandOff_next] at h ⊢
  rcases h with ⟨hready, rfl⟩ | ⟨hclosed, rfl⟩
  · exact .inl ⟨hready, rfl⟩
  · exact .inr ⟨hclosed, rfl⟩

/-- A cycle from a state with another value of `P.I` ends in the same next state but for `P.I` (R260). -/
theorem step_setI (h : step s = .next t) (b : Bool) : ∃ c, step (s.setI b) = .next (t.setI c) := by
  obtain ⟨hrun, ⟨r, ⟨hfetch, rfl⟩ | ⟨hfetch, rfl⟩, rfl⟩ | ⟨i, u, r, v, hfetch, hexec, hppu, rfl⟩ |
    ⟨i, u, v, hfetch, hexec, hppu, hanswer⟩⟩ := State.cycle_next_cases h
  · exact ⟨b, State.cycle_of_absent (s := s.setI b) hrun hfetch⟩
  · exact ⟨b, State.cycle_of_noHandler (s := s.setI b) hrun hfetch⟩
  · obtain ⟨c, hexec'⟩ := exec_setI hexec b
    have hppu' := (u.ppuUpdate_setI c _ _ _).trans (congrArg (Phase.map (·.setI c)) hppu)
    exact ⟨c, State.cycle_of_raised (s := s.setI b) hrun hfetch hexec' hppu'⟩
  · obtain ⟨c, hexec'⟩ := exec_setI hexec b
    have hppu' := (u.ppuUpdate_setI c _ _ _).trans (congrArg (Phase.map (·.setI c)) hppu)
    exact ⟨c, (step_of_ppuUpdate_done (s := s.setI b) hrun hfetch hexec' hppu').trans
      (State.displayHandOff_setI hanswer c)⟩

/-- Settles O52: the step commutes with a write of `P.I`, and writing back the old flag restores the next state. -/
theorem interruptDisableHasNoEffect : Obligations.InterruptDisableHasNoEffect := by
  intro s t b h
  obtain ⟨c, hstep⟩ := step_setI h b
  exact ⟨t.setI c, hstep, t.setI_setI_self c⟩

end Sys2Proof.Machine
end

section
/-! The register operations (42_register_ops.md R152, R154, R156): each opcode byte has a row whose handler takes no operand,
and each rule's equation is one register write, `NZ` of the value written, and an advance of PC by one byte. -/

namespace Sys2Proof.Machine

/-- Settles O17: the rule is one write of `Y`, then `NZ` of the decremented value. -/
theorem deyDecrementsY : Obligations.DeyDecrementsY := fun s =>
  ⟨fun hop => State.fetch_of_opcode hop rfl rfl, exec_dey s⟩

/-- Settles O18: the rule is one write of `X` with SP, whatever SP holds, then `NZ` of the same value. -/
theorem tsxCopiesSpToX : Obligations.TsxCopiesSpToX := fun s =>
  ⟨fun hop => State.fetch_of_opcode hop rfl rfl, exec_tsx s⟩

/-- Settles O19: the rule is one write of `X`, then `NZ` of the incremented value, which leaves `P.C` as it was. -/
theorem inxIncrementsX : Obligations.InxIncrementsX := fun s =>
  ⟨fun hop => State.fetch_of_opcode hop rfl rfl, exec_inx s⟩

end Sys2Proof.Machine
end

section
/-! Loads and stores (43_load_store.md R172 to R182): the whole next state of each rule, the effective address of
LDA absolute,X, and the round trip of a byte through a whole cycle of STA. -/

namespace Sys2Proof.Machine

variable {s t : State}

/-! ## The effective address of LDA absolute,X (R87, R178) -/

/-- The carry out of the low byte propagates, and the sum wraps at 2^16 (D18). -/
theorem State.eaAbsoluteX_eq_ofNat (s : State) (base : Word) :
    s.eaAbsoluteX base = BitVec.ofNat 16 (base.toNat + s.x.toNat) := by
  apply BitVec.eq_of_toNat_eq
  simp [State.eaAbsoluteX]

/-- Every address is reached from some base, whatever X holds (R182). -/
@[simp] theorem State.eaAbsoluteX_sub_x (s : State) (addr : Word) :
    s.eaAbsoluteX (addr - s.x.setWidth 16) = addr :=
  BitVec.sub_add_cancel addr _

/-- The rule with the byte that it loads named. -/
theorem exec_ldaAbsX_of_readMem {base : Word} {v : Byte} (hread : s.readMem (s.eaAbsoluteX base) = v) :
    exec (.ldaAbsX base) s = .next (((s.setA v).nz v).advancePc 3) := by
  rw [exec_ldaAbsX, hread]

/-! ## A stored byte after its cycle (R182) -/

/-- After a cycle of STA without fault the address reads as A, or as 0x00 where the clear reached it (R61, R180). -/
theorem State.readMem_step_staAbs {addr : Word} (hm : s.mem.wf = true)
    (hfetch : s.fetch opcodeTable = .instr (.staAbs addr)) (hstep : step s = .next t) (ht : t.unfaulted) :
    t.readMem addr = if region addr = .ioWindow then 0x00 else s.a := by
  have hstored : ((s.writeMem addr s.a).advancePc 3).readMem addr = s.a := by
    rw [State.advancePc_readMem, State.readMem_writeMem hm, if_pos rfl]
  rw [cycleClearsTheWindowAndNothingElse s _ t _ hm hfetch (exec_staAbs addr s) hstep ht addr, hstored]

/-- Settles O37: the base `addr - X` reaches `addr`, which reads as the cycle of STA left it. -/
theorem storeThenLoadRoundTrip : Obligations.StoreThenLoadRoundTrip := by
  intro s t u addr hinv _ hfetch hstep ht hsame
  have hread : u.readMem (u.eaAbsoluteX (addr - u.x.setWidth 16)) = t.readMem addr := by
    rw [State.eaAbsoluteX_sub_x, hsame]
  exact ⟨_, exec_ldaAbsX_of_readMem hread, State.readMem_step_staAbs hinv.mem_wf hfetch hstep ht⟩

/-! ## The whole next state of each rule -/

/-- Settles O20: the rule is one write of `Y` with the byte after the opcode, then `NZ` of it. -/
theorem ldyImmediateLoadsY : Obligations.LdyImmediateLoadsY := fun s =>
  ⟨fun hop => State.fetch_of_opcode hop rfl rfl, fun v => exec_ldyImm v s⟩

/-- Settles O21: the rule is one write of `X` with the byte after the opcode, then `NZ` of it. -/
theorem ldxImmediateLoadsX : Obligations.LdxImmediateLoadsX := fun s =>
  ⟨fun hop => State.fetch_of_opcode hop rfl rfl, fun v => exec_ldxImm v s⟩

/-- Settles O22: the rule is one write of `A` with the byte after the opcode, then `NZ` of it. -/
theorem ldaImmediateLoadsA : Obligations.LdaImmediateLoadsA := fun s =>
  ⟨fun hop => State.fetch_of_opcode hop rfl rfl, fun v => exec_ldaImm v s⟩

/-- Settles O23: the base is assembled low byte first, and the byte loaded is the one at the wrapped sum. -/
theorem ldaAbsoluteIndexedXLoadsA : Obligations.LdaAbsoluteIndexedXLoadsA := by
  refine fun s => ⟨fun hop => ?fetch, fun base v hread => ?rule⟩
  case fetch =>
    rw [append_eq_absOperand]
    exact State.fetch_of_opcode hop rfl rfl
  case rule =>
    rw [← State.eaAbsoluteX_eq_ofNat] at hread
    exact exec_ldaAbsX_of_readMem hread

/-- Settles O24: the operand is assembled low byte first, and the rule is one write of `M` at it. -/
theorem staAbsoluteStoresA : Obligations.StaAbsoluteStoresA := by
  refine fun s => ⟨fun hop => ?fetch, fun addr => exec_staAbs addr s⟩
  case fetch =>
    rw [append_eq_absOperand]
    exact State.fetch_of_opcode hop rfl rfl

end Sys2Proof.Machine
end

section
/-! The CPU cannot learn VRAM, VPTR or TILES (50_ppu.md R200): each part of a cycle that raises no fault commutes with other
values of these three. -/

namespace Sys2Proof.Machine

variable {i : Instr} {s t u v : State} {op : Byte} {pc0 : Word} {snap : Snapshot} {vram : Memory} {vptr : Word}
  {tiles : TileTable}

/-- The same CPU beside another PPU: `s` with other values of VRAM, VPTR and TILES. -/
def State.withPpu (s : State) (vram : Memory) (vptr : Word) (tiles : TileTable) : State :=
  { s with vram := vram, vptr := vptr, tiles := tiles }

/-- No rule reads the PPU's state. -/
theorem exec_withPpu (h : exec i s = .next t) :
    exec i (s.withPpu vram vptr tiles) = .next (t.withPpu vram vptr tiles) := by
  cases i with
  | bneRel off =>
    rw [exec_bneRel] at h
    cases h
    exact exec_bneRel off _
  | _ => cases h; rfl

/-- Where the PPU updates of one CPU beside two PPUs both complete, they end again in one CPU beside two PPUs. -/
theorem State.ppuUpdate_done_withPpu (h : s.ppuUpdate op pc0 snap = .done t)
    (h' : (s.withPpu vram vptr tiles).ppuUpdate op pc0 snap = .done u) : u = t.withPpu u.vram u.vptr tiles := by
  have ht := State.ppuUpdate_done_frame h
  have hu := State.ppuUpdate_done_frame h'
  rw [ht]
  exact hu

/-- The display answer comes from the host (R222). -/
theorem State.displayHandOff_withPpu (h : s.displayHandOff = .next t) :
    (s.withPpu vram vptr tiles).displayHandOff = .next (t.withPpu vram vptr tiles) := by
  rw [State.displayHandOff_next] at h ⊢
  rcases h with ⟨hready, rfl⟩ | ⟨hclosed, rfl⟩
  · exact .inl ⟨hready, rfl⟩
  · exact .inr ⟨hclosed, rfl⟩

/-- Settles O51: both cycles fetch one instruction, and its rule, the update, the clear and the display answer each keep
the two CPUs equal. -/
theorem ppuStateDoesNotReachTheCpu : Obligations.PpuStateDoesNotReachTheCpu := by
  intro s t u vram vptr tiles hstep hstep' ht hu
  obtain ⟨i, s₁, s₂, hfetch, hexec, hppu, hanswer⟩ := State.cycle_unfaulted hstep ht
  obtain ⟨i', u₁, u₂, hfetch', hexec', hppu', hanswer'⟩ := State.cycle_unfaulted hstep' hu
  cases hfetch.symm.trans hfetch'
  cases (exec_withPpu hexec).symm.trans hexec'
  rw [State.ppuUpdate_done_withPpu hppu hppu'] at hanswer'
  cases (State.displayHandOff_withPpu hanswer).symm.trans hanswer'
  rfl

end Sys2Proof.Machine
end

section
/-! The ports (50_ppu.md R201 to R205): which port a snapshot serves, what two address writes and a data write do, and that
VRAM holds no way back to 0x00. -/

namespace Sys2Proof.Machine

variable {i : Instr} {s t u : State} {op : Byte} {pc0 : Word} {snap : Snapshot} {j : Fin Config.ioLen} {k : Nat}

/-! ## Which port a snapshot serves (R201, R204) -/

theorem State.ppuUpdate_of_two_bytes (ha : snap[Config.portAddr] ≠ 0) (hd : snap[Config.portData] ≠ 0) :
    s.ppuUpdate op pc0 snap = (s.addressPort snap[Config.portAddr]).dataPort op pc0 snap[Config.portData] := by
  rw [State.ppuUpdate_eq, if_neg hd, if_neg ha]

/-- Settles O38: one case per pair of port bytes. -/
theorem ppuUpdateServesTwoPorts : Obligations.PpuUpdateServesTwoPorts := fun _ _ _ _ =>
  ⟨State.ppuUpdate_of_no_byte, fun ha hd => State.ppuUpdate_of_address_byte rfl hd ha,
    fun ha hd => State.ppuUpdate_of_data_byte ha rfl hd, State.ppuUpdate_of_two_bytes⟩

/-- A nonzero byte of the snapshot is there because the instruction was STA to it (R62). -/
theorem exec_eq_staAbs_of_snapshot_ne_zero (hinv : s.Inv) (hrun : s.run = .running) (hexec : exec i s = .next t)
    (hj : t.snapshot[j] ≠ 0) : i = .staAbs (windowAddr j) := by
  by_contra hne
  exact hj ((exec_snapshot hinv.mem_wf (hinv.windowClear_of_running hrun) hexec j).trans (if_neg hne))

/-- Settles O36: an instruction is STA to one address at most. -/
theorem atMostOnePortActs : Obligations.AtMostOnePortActs := by
  intro s t i hinv hrun hexec
  refine ⟨fun j k hj hk => ?same, ?ports⟩
  case same =>
    have hSta := exec_eq_staAbs_of_snapshot_ne_zero hinv hrun hexec hj
    have hSta' := exec_eq_staAbs_of_snapshot_ne_zero hinv hrun hexec hk
    exact windowAddr_inj.1 (Instr.staAbs.inj (hSta.symm.trans hSta'))
  case ports =>
    by_cases hd : t.snapshot[Config.portData] = 0
    · exact .inr hd
    · exact .inl (exec_snapshot_one_port hinv hrun hexec hd)

/-! ## The address port (R202) -/

/-- Settles O39: the shift drops the high byte. -/
theorem addressPortShiftsVptr : Obligations.AddressPortShiftsVptr := State.addressPort_eq_setVptr_append

theorem absOperand_toNat (b1 b2 : Byte) : (absOperand b1 b2).toNat = b2.toNat * 256 + b1.toNat := by
  have happend : absOperand b1 b2 = b2 ++ b1 := (append_eq_absOperand b1 b2).symm
  rw [happend, BitVec.toNat_append, ← Nat.shiftLeft_add_eq_or_of_lt b1.isLt, Nat.shiftLeft_eq]

/-- Two address writes shift the old VPTR out altogether. -/
theorem State.addressPort_addressPort_vptr (s : State) (h l : Byte) :
    ((s.addressPort h).addressPort l).vptr = absOperand l h := by
  rw [State.addressPort_eq_setVptr_append, State.addressPort_eq_setVptr_append, append_eq_absOperand,
    append_eq_absOperand]
  exact congrArg (absOperand l) (lowByte_absOperand h _)

/-! ## The data port (R203) -/

/-- Below `VRAM_SIZE` the increment of VPTR does not wrap. -/
theorem vptr_succ_toNat {w : Word} (h : w.toNat < 0x4000) : (w + 1).toNat = w.toNat + 1 := by
  bv_omega

/-- Of the faults, VramRangeError comes from the PPU update alone, with the byte at PC and PC as its record. -/
theorem State.cycleToRender_raised_vramRangeError {rom : Rom} {w : Word}
    (h : s.cycleToRender rom = .raised (.vramRangeError op pc0 w) u) : op = s.readMem s.pc ∧ pc0 = s.pc := by
  obtain ⟨-, ⟨-, hr, -⟩ | ⟨-, hr, -⟩ | ⟨i, t, -, -, hppu⟩⟩ := State.cycleToRender_raised h
  · cases hr
  · cases hr
  · obtain ⟨⟨w', hr⟩, -⟩ := State.ppuUpdate_raised_frame hppu
    cases hr
    exact ⟨rfl, rfl⟩

/-- Settles O40: the data port acts on the VPTR it finds, which after two address writes is `(H<<8)|L`. -/
theorem dataPortStoresAtVptr : Obligations.DataPortStoresAtVptr := by
  refine ⟨fun s op pc0 v => ⟨fun hlt hwf => ?store, fun hge => State.dataPort_raised.2 ⟨hge, rfl, rfl⟩⟩,
    fun s op pc0 h l v hwf => ?twoAddressWrites, fun s u op pc0 w => State.cycleToRender_raised_vramRangeError⟩
  case store =>
    exact ⟨_, State.dataPort_done.2 ⟨hlt, rfl⟩, rfl, Memory.wfSize_set hwf hlt, fun k => Memory.get_set hwf⟩
  case twoAddressWrites =>
    have hvptr := s.addressPort_addressPort_vptr h l
    rw [← absOperand_toNat, ← hvptr]
    refine ⟨fun hlt => ⟨_, State.dataPort_done.2 ⟨hlt, rfl⟩, ?byte, vptr_succ_toNat hlt⟩,
      fun hge => ⟨(s.addressPort h).addressPort l, ?raise⟩⟩
    case byte => exact (Memory.get_set hwf).trans (if_pos rfl)
    case raise => exact State.dataPort_raised.2 ⟨hge, by rw [BitVec.ofNat_toNat, BitVec.setWidth_eq], rfl⟩

/-! ## No port writes 0x00 (R205) -/

/-- What a completed PPU update did to VRAM: nothing, or one store of a nonzero byte. -/
theorem State.ppuUpdate_done_vram (h : s.ppuUpdate op pc0 snap = .done t) :
    t.vram = s.vram ∨ ∃ k b, b ≠ 0 ∧ t.vram = s.vram.set k b := by
  have hbase : (if snap[Config.portAddr] = 0 then s else s.addressPort snap[Config.portAddr]).vram = s.vram := by
    split <;> rfl
  rw [State.ppuUpdate_eq] at h
  by_cases hd : snap[Config.portData] = 0
  · rw [if_pos hd] at h
    cases h
    exact .inl hbase
  · rw [if_neg hd] at h
    obtain ⟨-, rfl⟩ := State.dataPort_done.1 h
    exact .inr ⟨_, _, hd, congrArg (Memory.set · _ _) hbase⟩

theorem State.ppuUpdate_done_vram_ne_zero (hwf : s.vram.wfSize Config.vramSize = true)
    (h : s.ppuUpdate op pc0 snap = .done t) (hk : s.vram.get k ≠ 0) : t.vram.get k ≠ 0 := by
  rcases State.ppuUpdate_done_vram h with hsame | ⟨k', b, hb, hset⟩
  · rwa [hsame]
  · rw [hset, Memory.get_set hwf]
    split
    · exact hb
    · exact hk

theorem State.displayHandOff_vram (h : s.displayHandOff = .next t) : t.vram = s.vram := by
  rw [State.displayHandOff_frame h]

/-- Settles O45: of all the ways a cycle ends, one alone changes VRAM, and there a completed PPU update did it. -/
theorem vramByteNeverReturnsToZero : Obligations.VramByteNeverReturnsToZero := by
  intro s t k hinv hstep hk
  obtain ⟨-, ⟨r, -, rfl⟩ | ⟨i, u, r, v, -, hexec, hppu, rfl⟩ | ⟨i, u, v, -, hexec, hppu, hanswer⟩⟩ :=
    State.cycle_next_cases hstep
  · exact hk
  · rw [State.raise_vram, (State.ppuUpdate_raised_frame hppu).2]
    exact exec_vram hexec ▸ hk
  · rw [← exec_vram hexec] at hk
    rw [State.displayHandOff_vram hanswer, State.clearWindow_vram]
    exact State.ppuUpdate_done_vram_ne_zero (exec_vram hexec ▸ hinv.vram_wf) hppu hk

end Sys2Proof.Machine
end

section
/-! Tiles and frames (50_ppu.md R210, R220, R221): the pixels of a decoded tile and of a frame, and what a frame depends
on. -/

namespace Sys2Proof.Machine

variable {s t : State}

/-- A pixel is its low plane's bit and twice its high plane's (R210). -/
theorem planeBit_or_toNat (lo hi : Byte) (b : Nat) :
    (planeBit lo b ||| (planeBit hi b <<< 1)).toNat = (lo.getLsbD b).toNat + 2 * (hi.getLsbD b).toNat := by
  unfold planeBit
  cases lo.getLsbD b <;> cases hi.getLsbD b <;> rfl

/-- Settles O47: column `c` takes bit `7 - c` of the row's byte in each plane. -/
theorem decodedTilePixels : Obligations.DecodedTilePixels := by
  intro record r c
  rw [tilePixel_decodeTile, planeBit_or_toNat]

theorem State.frame_raster (s : State) (y : Fin Config.rasterH) (x : Fin Config.rasterW) :
    s.frame.raster y x = pixelAt s.vram s.tiles y.val x.val := rfl

/-- Settles O48: a remainder mod 8 is itself the row or the column within the tile. -/
theorem renderedPixels : Obligations.RenderedPixels := by
  intro s y x e he
  refine ⟨?_, rfl⟩
  rw [State.frame_raster, pixelAt_eq, he, Nat.zero_add]
  congr 1 <;> exact Fin.ext (Nat.mod_mod _ 8)

/-- Two rasters with equal pixels make the same frame, since the palette is a constant. -/
theorem State.frame_eq_of_pixels
    (h : ∀ (y : Fin Config.rasterH) (x : Fin Config.rasterW),
      pixelAt s.vram s.tiles y.val x.val = pixelAt t.vram t.tiles y.val x.val) : s.frame = t.frame :=
  congrArg (Frame.mk · Config.grayPalette) (funext fun y => funext (h y))

/-- Settles O49: the cell of a pixel is one of 960, and its entry, being a byte, selects one of 256 tiles. -/
theorem frameDependsOnNameTableAndTilesOnly : Obligations.FrameDependsOnNameTableAndTilesOnly := by
  intro s t hvram htiles
  refine State.frame_eq_of_pixels fun y x => ?_
  have hy : y.val < 240 := y.isLt
  have hx : x.val < 256 := x.isLt
  rw [pixelAt_eq, pixelAt_eq, hvram _ (by omega) (by omega), htiles _ (BitVec.isLt _)]

end Sys2Proof.Machine
end

section
/-! What goes out at the end of a cycle (50_ppu.md R221, R222; 60_exceptions.md R256, R257; 70_reset_and_hazards.md R296,
R297): a frame and the display answer, or a fault record. -/

namespace Sys2Proof.Machine

variable {s t u : State} {rom : Rom} {r : FaultRecord}

/-! ## The outputs, by how the cycle reaches its end -/

theorem State.frameOut_of_done (h : s.cycleToRender rom = .done u) : s.frameOut rom = some u.frame := by
  simp only [State.frameOut, h]

theorem State.faultOut_of_done (h : s.cycleToRender rom = .done u) : s.faultOut rom = none := by
  simp only [State.faultOut, h]

theorem State.frameOut_of_raised (h : s.cycleToRender rom = .raised r u) : s.frameOut rom = none := by
  simp only [State.frameOut, h]

theorem State.faultOut_of_raised (h : s.cycleToRender rom = .raised r u) : s.faultOut rom = some r := by
  simp only [State.faultOut, h]

/-- Up to its render a cycle keeps RUN, which is `Running`, and the host's answers (R37, R222). -/
theorem State.cycleToRender_done_frame (h : s.cycleToRender rom = .done u) :
    u.run = .running ∧ u.display = s.display := by
  obtain ⟨hrun, i, t, v, -, hexec, hppu, rfl⟩ := State.cycleToRender_done h
  rw [State.clearWindow_run, State.clearWindow_display, State.ppuUpdate_done_frame hppu]
  exact ⟨(exec_run (t := t) hexec).trans hrun, exec_display (t := t) hexec⟩

/-- From its render on, a cycle is the display answer (R222). -/
theorem State.cycle_of_done (h : s.cycleToRender rom = .done u) : s.cycle rom = u.displayHandOff := by
  rw [State.cycle, h, Phase.finish]

/-- The display answer leaves the frame that went out as it was (R222). -/
theorem State.frame_of_displayHandOff (h : u.displayHandOff = .next t) : t.frame = u.frame := by
  rw [State.displayHandOff_frame h]
  rfl

/-! ## The statements -/

/-- Settles O11: after the render the answers still to come are those of before the cycle. -/
theorem displayAnswerEndsTheCycle : Obligations.DisplayAnswerEndsTheCycle := by
  intro s u h
  obtain ⟨hrun, hdisplay⟩ := State.cycleToRender_done_frame h
  have hstep : step s = u.displayHandOff := State.cycle_of_done h
  have hanswer : u.nextAnswer = s.nextAnswer := by rw [State.nextAnswer, hdisplay, State.nextAnswer]
  rw [hstep, ← hanswer, ← hdisplay]
  refine ⟨⟨u.frame, State.frameOut_of_done h, rfl⟩, State.faultOut_of_done h, hrun, fun hready => ?ready,
    fun hclosed => ?closed, fun hsilent => ?silent⟩
  case ready => exact State.displayHandOff_next.2 (.inl ⟨hready, rfl⟩)
  case closed => exact State.displayHandOff_next.2 (.inr ⟨hclosed, rfl⟩)
  case silent => rw [State.displayHandOff, hsilent]

/-- Settles O50: a cycle that raises stops the block, and one that renders does not. -/
theorem oneFramePerUnfaultedCycle : Obligations.OneFramePerUnfaultedCycle := by
  intro s t h
  obtain ⟨-, ⟨r, u, hraised, rfl⟩ | ⟨u, hdone, hanswer⟩⟩ := State.cycle_next h
  · refine ⟨fun hunf => absurd rfl (hunf r), fun r' hr' => ?_⟩
    cases hr'
    exact ⟨State.frameOut_of_raised hraised, State.faultOut_of_raised hraised⟩
  · have hunf := State.displayHandOff_unfaulted (State.cycleToRender_done_frame hdone).1 hanswer
    refine ⟨fun _ => ⟨?_, State.faultOut_of_done hdone⟩, fun r hr => absurd hr (hunf r)⟩
    rw [State.frame_of_displayHandOff hanswer]
    exact State.frameOut_of_done hdone

end Sys2Proof.Machine
end

section
/-! How many byte values a legal dispatch ROM leaves absent (30_encoding.md R80, R93). -/

namespace Sys2Proof

variable {rom : Rom} {op : Byte}

/-- A byte is present exactly when a row names it (R80). -/
theorem lookup_isSome_iff : (lookup rom op).isSome = true ↔ op ∈ rom.map RomRow.byte := by
  induction rom with
  | nil => simp [lookup]
  | cons row rows ih =>
    rw [lookup_cons, List.map_cons, List.mem_cons, ← ih]
    by_cases hb : row.byte = op
    · simp [hb]
    · simp [hb, Ne.symm hb]

/-- The byte values that a legal ROM has a row for are, up to order, the bytes of its rows. -/
theorem present_perm_bytes (hwf : rom.wf = true) :
    ((List.range 256).filter fun n => (lookup rom (BitVec.ofNat 8 n)).isSome).Perm
      ((rom.map RomRow.byte).map BitVec.toNat) := by
  have hnodup : ((rom.map RomRow.byte).map BitVec.toNat).Nodup :=
    ((Rom.wf_iff_nodup rom).1 hwf).map fun _ _ => BitVec.eq_of_toNat_eq
  refine (List.perm_ext_iff_of_nodup (List.nodup_range.filter _) hnodup).2 fun n => ?_
  rw [List.mem_filter, List.mem_range, lookup_isSome_iff, List.mem_map (f := BitVec.toNat)]
  constructor
  · rintro ⟨hn, hmem⟩
    exact ⟨_, hmem, (BitVec.toNat_ofNat n 8).trans (Nat.mod_eq_of_lt hn)⟩
  · rintro ⟨op, hmem, rfl⟩
    rw [BitVec.ofNat_toNat, BitVec.setWidth_eq]
    exact ⟨op.isLt, hmem⟩

/-- In a legal ROM each row takes one of the 256 byte values, and the others are absent. -/
theorem length_absent_add_length (hwf : rom.wf = true) :
    ((List.range 256).filter fun n => (lookup rom (BitVec.ofNat 8 n)).isNone).length + rom.length = 256 := by
  have hpresent := (present_perm_bytes hwf).length_eq
  rw [List.length_map, List.length_map] at hpresent
  have hsplit := (List.range 256).length_eq_length_filter_add fun n => (lookup rom (BitVec.ofNat 8 n)).isNone
  simp only [Option.not_isNone, hpresent, List.length_range] at hsplit
  exact hsplit.symm

end Sys2Proof
end

section
/-! Fault entry and the cycles that end in it (60_exceptions.md R250, R251, R253, R257): an absent opcode byte at the
fetch, and a data write beyond VRAM after its instruction. -/

namespace Sys2Proof.Machine

variable {i : Instr} {s u v : State} {rom : Rom} {r : FaultRecord}

/-- Settles O53: fault entry is one write of RUN, and the codes are read off the four kinds. -/
theorem faultEntryChangesRunOnly : Obligations.FaultEntryChangesRunOnly :=
  ⟨fun _ _ => rfl, fun _ _ => rfl, fun _ _ => rfl, fun _ _ _ => rfl, fun _ => rfl⟩

/-- A cycle that raises stops the block in the state of the raise point, renders no frame and sends its record out
(R257). -/
theorem step_of_raised (h : s.cycleToRender opcodeTable = .raised r u) :
    step s = .next (u.raise r) ∧ s.frameOut opcodeTable = none ∧ s.faultOut opcodeTable = some r := by
  refine ⟨?_, State.frameOut_of_raised h, State.faultOut_of_raised h⟩
  rw [step, State.cycle, h, Phase.finish]

/-! ## DecodeError (R251) -/

theorem State.cycleToRender_of_absent (hrun : s.run = .running) (hfetch : s.fetch rom = .absent) :
    s.cycleToRender rom = .raised (.decodeError (s.readMem s.pc) s.pc) s := by
  rw [State.cycleToRender_running rom hrun, hfetch]

/-- Settles O2: the eleven rows leave 245 bytes, an absent byte raises in the state before the cycle, and the clear
window holds 0x00, which is absent. -/
theorem absentByteRaisesDecodeError : Obligations.AbsentByteRaisesDecodeError := by
  refine ⟨Nat.add_right_cancel (length_absent_add_length opcodeTable_wf), rfl, fun s hrun habsent => ?absent,
    fun s hinv hrun hpc => ?window⟩
  case absent => exact step_of_raised (State.cycleToRender_of_absent hrun (dispatch_absent.2 habsent))
  case window =>
    obtain ⟨-, hfetch, -⟩ := windowIsClearAtInstructionStart s hinv hrun
    exact hfetch hpc

/-! ## VramRangeError (R253) -/

/-- The byte at PC is the opcode byte of the instruction that the fetch answers (R85, R92). -/
theorem State.head_encode_of_fetch (hfetch : s.fetch opcodeTable = .instr i) :
    (encode i).head? = some (s.readMem s.pc) := by
  obtain ⟨mn, mode, hlookup, hhandler⟩ := dispatch_instr.1 hfetch
  obtain ⟨j, hj, hencode⟩ :=
    handler_of_mem_opcodeTable (lookup_some hlookup) (s.readMem (s.pc + 1)) (s.readMem (s.pc + 2))
  cases hhandler.symm.trans hj
  rw [hencode]
  cases mode <;> rfl

theorem State.cycleToRender_of_ppuUpdate_raised (hrun : s.run = .running) (hfetch : s.fetch rom = .instr i)
    (hexec : exec i s = .next u) (hppu : u.ppuUpdate (s.readMem s.pc) s.pc u.snapshot = .raised r v) :
    s.cycleToRender rom = .raised r v := by
  rw [State.cycleToRender_running rom hrun, hfetch]
  simp only [hexec, afterRule]
  exact State.updatePpu_raised.2 hppu

/-- After STA of a nonzero A to offset 7 the snapshot serves the data port alone (R62, R201). -/
theorem ppuUpdate_staDataPort (hinv : s.Inv) (hrun : s.run = .running) (ha : s.a ≠ 0)
    (hexec : exec (.staAbs (windowAddr Config.portData)) s = .next u) (op : Byte) (pc0 : Word) :
    u.ppuUpdate op pc0 u.snapshot = u.dataPort op pc0 s.a := by
  have hsnap := snapshot_staWindow hinv hrun hexec
  exact State.ppuUpdate_of_data_byte ((hsnap Config.portAddr).trans (if_neg (by decide)))
    ((hsnap Config.portData).trans (if_pos rfl)) ha

/-- Settles O43: the update is one write to the data port, which raises in the state that STA left. -/
theorem dataWriteBeyondVramStopsTheBlock : Obligations.DataWriteBeyondVramStopsTheBlock := by
  intro s hinv hrun hfetch ha hvptr
  have hop : s.readMem s.pc = 0x8D := (Option.some.inj (State.head_encode_of_fetch hfetch)).symm
  have hexec := exec_staAbs (windowAddr Config.portData) s
  have hppu := (ppuUpdate_staDataPort hinv hrun ha hexec (s.readMem s.pc) s.pc).trans
    (State.dataPort_raised.2 ⟨hvptr, rfl, rfl⟩)
  rw [← hop]
  exact step_of_raised (State.cycleToRender_of_ppuUpdate_raised hrun hfetch hexec hppu)

end Sys2Proof.Machine
end

section
/-! Reset and the boot load (70_reset_and_hazards.md R280 to R285): the invariant after it, what it leaves in memory and
TILES, and the checks of a cartridge buffer. -/

namespace Sys2Proof.Machine

variable {s t : State} {rom : Rom} {draw : ResetDraw} {display : List DisplayAnswer} {m : Memory}
  {prg chr buf : List Byte} {i n : Nat}

/-! ## The invariant after the boot load (R62, R284) -/

theorem Memory.wf_setBytes_prgBase (hm : m.wf = true) (h : prg.length ≤ 0x8000) : (m.setBytes 0x8000 prg).wf = true :=
  Memory.wfSize_setBytes (size := 65536) hm (by omega)

/-- Loading blocks within their limits keeps the invariant where the window is clear: the program region lies above the
window. -/
theorem State.Inv.with_blocks (h : s.Inv) (hw : s.windowClear) (hprg : prg.length ≤ 0x8000) (hn : n ≤ 512) :
    ({ s with mem := s.mem.setBytes 0x8000 prg, tiles := ingestFirst s.tiles chr n } : State).Inv where
  mem_wf := Memory.wf_setBytes_prgBase h.mem_wf hprg
  vram_wf := h.vram_wf
  tiles_wf := ingestFirst_wf h.tiles_wf chr n hn
  window_clear := fun _ j => by
    have hlt : j.val < 8 := j.isLt
    have hj : (windowAddr j).toNat < 0x8000 := by rw [windowAddr_toNat]; omega
    exact (Memory.get_setBytes_prgBase h.mem_wf hprg _).trans
      ((if_neg fun hin => Nat.not_lt.2 hin.1 hj).trans (hw j))

/-- A buffer that passes the checks loads, and M and TILES alone change (R284). -/
theorem State.bootCartridge_of_valid (h : validate buf = none) :
    s.bootCartridge buf = { s with
      mem := s.mem.setBytes 0x8000 (prgBlock buf)
      tiles := ingestFirst s.tiles (chrBlock buf) (chrLen buf / 16) } := by
  rw [State.bootCartridge, State.loadCartridge_ok h, State.endBoot_ok]

theorem State.Inv.bootCartridge (h : s.Inv) (hw : s.windowClear) (buf : List Byte) : (s.bootCartridge buf).Inv := by
  cases hv : validate buf with
  | some reason =>
    rw [State.bootCartridge_error hv]
    exact h.with_run_display hw (.stopped (.loadError reason)) s.display
  | none =>
    obtain ⟨-, hprg, hchr⟩ := validate_none hv
    obtain ⟨hlen, -⟩ := length_blocks hv
    rw [State.bootCartridge_of_valid hv]
    exact h.with_blocks hw (hlen.trans_le hprg) (by omega)

theorem State.Inv.bootBlocks (h : s.Inv) (hw : s.windowClear) (ht : s.bootBlocks prg chr = .next t) : t.Inv := by
  by_cases hwf : blockPairWf prg chr = true
  · obtain ⟨hprg, -, hchr⟩ := blockPairWf_iff.1 hwf
    rw [State.bootBlocks_of_wf hwf] at ht
    cases ht
    exact h.with_blocks hw hprg (by omega)
  · rw [State.bootBlocks_of_not_wf hwf] at ht
    cases ht

/-- The reset sequence answers a state exactly with a legal dispatch ROM, the one that its boot load leaves (R280, R93). -/
theorem powerOnWith_next : powerOnWith rom draw display buf = .next s ↔
    rom.wf = true ∧ (State.resetWith draw display).bootCartridge buf = s := by
  by_cases h : rom.wf = true <;> simp [powerOnWith, h]

/-- Settles O33: reset meets the invariant with a clear window, and neither form of boot load reaches the window. -/
theorem bootMeetsTheInvariant : Obligations.BootMeetsTheInvariant := by
  have hreset (draw display) : (State.resetWith draw display).Inv ∧ (State.resetWith draw display).windowClear :=
    ⟨resetMeetsTheInvariant draw display, (resetMeetsTheInvariant draw display).windowClear_of_running rfl⟩
  constructor
  · intro rom draw display buf s hs
    obtain ⟨-, rfl⟩ := powerOnWith_next.1 hs
    obtain ⟨hinv, hw⟩ := hreset draw display
    exact hinv.bootCartridge hw buf
  · intro draw display prg chr s hs
    obtain ⟨hinv, hw⟩ := hreset draw display
    exact hinv.bootBlocks hw hs

/-! ## The blocks within the buffer (R282) -/

theorem getD_prgBlock (hi : i < prgLen buf) : (prgBlock buf).getD i 0 = buf.getD (16 + i) 0 := by
  simp [prgBlock, headerLength, List.getD_eq_getElem?_getD, List.getElem?_take_of_lt hi]

/-- A whole record of the tile block is the same 16 bytes of the buffer. -/
theorem tileRecord_chrBlock (hn : 16 * n + 16 ≤ chrLen buf) :
    tileRecord (chrBlock buf) n = (buf.drop (16 + prgLen buf + 16 * n)).take 16 := by
  have hmin : min 16 (chrLen buf - 16 * n) = 16 := by omega
  simp only [tileRecord, chrBlock, headerLength, Config.tileBytes, List.drop_take, List.drop_drop, List.take_take, hmin]

/-- Settles O58: the two blocks are copied and decoded into the empty arrays of reset. -/
theorem memoryImageAfterBoot : Obligations.MemoryImageAfterBoot := by
  rintro draw display buf s p c rfl rfl hv hs
  obtain ⟨-, hprg, hchr⟩ := validate_none hv
  obtain ⟨hlen, -⟩ := length_blocks hv
  obtain ⟨-, rfl⟩ := powerOnWith_next.1 hs
  rw [State.bootCartridge_of_valid hv]
  refine ⟨fun k => ?mem, fun n => ?tiles, rfl⟩
  case mem =>
    have hget := Memory.get_setBytes_prgBase Memory.wfSize_nil (hlen.trans_le hprg) k.toNat
    rw [hlen] at hget
    refine hget.trans (ite_congr rfl (fun hk => getD_prgBlock ?_) fun _ => Memory.get_nil)
    unfold prgLen
    omega
  case tiles =>
    have hcount : chrLen buf / 16 = 512 * (buf.getD 5 0).toNat := by unfold chrLen; omega
    have hle : chrLen buf / 16 ≤ 512 := by omega
    refine (ingestFirst_get TileTable.wf_nil (chrBlock buf) n _ hle).trans ?_
    rw [hcount]
    exact ite_congr rfl (fun hn => congrArg decodeTile (tileRecord_chrBlock (by omega))) fun _ => TileTable.get_nil

/-! ## The checks of a cartridge buffer (R283) -/

/-- The magic sequence, byte by byte (R281). -/
theorem take_four_eq_magic_iff (h : 4 ≤ buf.length) : buf.take 4 = magic ↔
    buf.getD 0 0 = 0x4E ∧ buf.getD 1 0 = 0x45 ∧ buf.getD 2 0 = 0x53 ∧ buf.getD 3 0 = 0x1A := by
  match buf, h with
  | b0 :: b1 :: b2 :: b3 :: bs, _ => simp [magic]

/-- Settles O57: `validate` is that chain of checks, and a failing check is fault entry, one write of RUN. -/
theorem cartridgeChecksInOrder : Obligations.CartridgeChecksInOrder := by
  rintro buf p c rfl rfl
  refine ⟨?chain, fun s reason h => State.bootCartridge_error h⟩
  case chain =>
    unfold validate
    refine ite_congr rfl (fun _ => rfl) fun hlen => ?_
    have hmagic := take_four_eq_magic_iff (Nat.le_trans (by decide) (Nat.not_lt.1 hlen))
    exact ite_congr (propext (not_congr hmagic)) (fun _ => rfl) fun _ => rfl

end Sys2Proof.Machine
end
